-- ==== Sys2Proof/Word.lean ====
section
/-! DEFINITION. The byte and the 32-bit word of RASU (spec/00_scope.md R5, spec/10_state.md R11 to R17). -/

namespace Sys2Proof

/-- A byte: 8 bits, bit 7 the most significant (R5). -/
abbrev Byte := BitVec 8

/-- A 32-bit unsigned register or header field (R11 to R17, R64). -/
abbrev Word := BitVec 32

end Sys2Proof
end

