-- ==== Sys2Proof/Types.lean ====
section
/-! DEFINITION. The enumerations and records the spec names: header types, pixel formats, phases, RLE states,
fault kinds and causes, pixel elements, palette entries, and the selections of the operation table. -/

namespace Sys2Proof

/-- `CFG.TYPE` (spec/10_state.md R15): the seven names in the order of their register codes 0 to 6, and register
code 7, which only the host can write. -/
inductive RasType where
  | old | standard | byteEncoded | rgb | tiff | iff | experimental | code7
  deriving DecidableEq, Repr, Inhabited

/-- `CFG.CMAP_TYPE` (R16): the three names in the order of their register codes 0 to 2, and register code 3, which
only the host can write. -/
inductive CmapType where
  | none | rgb | raw | code3
  deriving DecidableEq, Repr, Inhabited

/-- `FMT` (R18): the six pixel formats in the order of their register codes 0 to 5. -/
inductive PixelFormat where
  | grayscale1 | grayscale8 | indexed8 | rgb24 | bgr24 | rgba32
  deriving DecidableEq, Repr, Inhabited

/-- `PHASE` (R20): the ten phases in the order of their register codes 0 to 9. -/
inductive Phase where
  | idle | magic | header | resolve | cmap | size | decomp | assemble | done | fault
  deriving DecidableEq, Repr, Inhabited

/-- `RSTATE` (R22): the four states of the RLE machine, codes 0 to 3. -/
inductive RState where
  | rByte | rCount | rValue | rRun
  deriving DecidableEq, Repr, Inhabited

/-- `FAULT_KIND` (R26, R180): none and the three kinds, codes 0 to 3. -/
inductive FaultKind where
  | none | invalidData | unsupported | resource
  deriving DecidableEq, Repr, Inhabited

/-- `FAULT_CAUSE` (R181): none and the eight causes, codes 0 to 8. -/
inductive FaultCause where
  | none | badMagic | streamEnd | badEnumCode | paletteOverflow | unsupportedDepth | unsupportedColorMap
  | unsupportedType | capacityExceeded
  deriving DecidableEq, Repr, Inhabited

/-- One palette entry: four 8-bit fields (R29). -/
structure PalEntry where
  r : Byte
  g : Byte
  b : Byte
  a : Byte
  deriving DecidableEq, Repr, Inhabited

/-- One element of `PIX`, tagged by its format (spec/30_encoding.md R79). The channels stand in the order of the
format's name. -/
inductive Pixel where
  | grayscale1 (value : BitVec 1)
  | grayscale8 (value : Byte)
  | indexed8 (index : Byte)
  | rgb24 (r g b : Byte)
  | bgr24 (b g r : Byte)
  | rgba32 (r g b a : Byte)
  deriving DecidableEq, Repr, Inhabited

/-- How `DECOMP` reads the bitmap data (spec/41_rle_decompressor.md R120): a function of `CFG.TYPE`, no register. -/
inductive DecompMode where
  | rawCopy | rle
  deriving DecidableEq, Repr, Inhabited

/-- What selects an operation (the "Selected when" column of R75): the command, the phase, the decompression mode,
the format and depth. The same stream bytes mean different operations under different selections. -/
inductive Sel where
  | detect | magic | header | resolve | cmap | size | rawCopy | rle
  | asm (fmt : PixelFormat) (depth : Word)
  deriving DecidableEq, Repr

/-- Why the decoder gives no operation: the stream ends inside the operation's bytes (R73 "incomplete token",
R183), or no assembly operation exists for the format and depth (R150). -/
inductive DecodeReject where
  | streamEnd | noAssembly
  deriving DecidableEq, Repr

/-- One move of the host (spec/10_state.md R33, spec/70_reset_and_hazards.md R210 to R214); `pass` is no move: the
sequencer takes its step. -/
inductive HostMove where
  | pass
  | writeReg (n : BitVec 4) (v : Word)
  | readReg (n : BitVec 4)
  | readPal (i : Nat)
  | readPix (p : Nat)
  | attach (bytes : List Byte)
  | close
  | reset
  deriving DecidableEq, Repr

end Sys2Proof
end

