-- ==== Sys2Proof/Config.lean ====
section
/-! DEFINITION. The fixed parameters of spec/00_scope.md R4, the record of its OPEN parameters, their values at
reset, and the free values. -/

namespace Sys2Proof

/-- `TYPE_CODE` (R4, R62): the 32-bit stream code of each `type` name. OPEN in the spec. -/
structure TypeCode where
  old : Word
  standard : Word
  byteEncoded : Word
  rgb : Word
  tiff : Word
  iff : Word
  experimental : Word
  deriving DecidableEq, Repr

/-- `CMAP_CODE` (R4, R63): the 32-bit stream code of each `color_map_type` name. OPEN in the spec. -/
structure CmapCode where
  none : Word
  rgb : Word
  raw : Word
  deriving DecidableEq, Repr

/-- The OPEN parameters of R4. A state carries them (`State.params`), no step writes them: a claim about every state
is a claim for every value of them. -/
structure Params where
  rawCapacity : Nat
  pixCapacity : Nat
  idx1Invert : Bool
  typeCode : TypeCode
  cmapCode : CmapCode
  deriving DecidableEq, Repr

/-- The registers a fault releases (spec/60_exceptions.md R191: "the derived and working registers" and
`PAL_COUNT`). -/
structure ReleasedRegs where
  palPresent : Bool
  fmt : PixelFormat
  bpp : BitVec 3
  rowBytes : Nat
  rawSize : Nat
  pixCount : Nat
  rstate : RState
  rcount : BitVec 9
  rvalue : Byte
  opos : Nat
  ax : Nat
  ay : Nat
  cidx : Nat
  palCount : BitVec 9
  deriving DecidableEq, Repr, Inhabited

namespace Config

/-- `PAL_CAPACITY` (R4). -/
def palCapacity : Nat := 256

/-- `MAGIC` (R4, R60): the four bytes as one big-endian word. -/
def magic : Word := 0x59A66A95

/-- `ESC` (R4). -/
def esc : Byte := 0x80

/-- `HDR_BYTES` (R4). -/
def hdrBytes : Nat := 28

/-- Fully opaque alpha (decisions D13, D14). -/
def alphaOpaque : Byte := 0xFF

/-- The default `TYPE_CODE` of R4. PRESUMED, log entry 6: the Sun Raster assignment, which the spec itself marks as
general knowledge. -/
def typeCodeDefault : TypeCode :=
  { old := 0, standard := 1, byteEncoded := 2, rgb := 3, tiff := 4, iff := 5, experimental := 0xFFFF }

/-- The default `CMAP_CODE` of R4. PRESUMED, log entry 6. -/
def cmapCodeDefault : CmapCode := { none := 0, rgb := 1, raw := 2 }

/-- The parameters of the state after reset. DESIGN CHOICE, log entry 5: capacities no image exceeds
(R19: `RAW_SIZE < 2^66`, `PIX_COUNT < 2^64`), `IDX1_INVERT` false. -/
def paramsDefault : Params :=
  { rawCapacity := 73786976294838206464
    pixCapacity := 18446744073709551616
    idx1Invert := false
    typeCode := typeCodeDefault
    cmapCode := cmapCodeDefault }

/-- Free values, log entries 8 and 9: what the released registers hold after the fault, or at the entry to `DECOMP`,
that the counter `State.freeCount` numbers. No body: nothing can be proved of any of them. -/
opaque releasedRegs : Nat → ReleasedRegs

end Config

end Sys2Proof
end

