-- ==== Sys2Proof/Syntax.lean ====
section
/-! DEFINITION. The operations of spec/30_encoding.md R75 and spec/opcode_table.json, one constructor per row, with
the fields that the row's stream bytes carry. -/

namespace Sys2Proof

/-- The 17 operations. `magic` carries the four bytes pulled as one big-endian word; `hdr` the seven header fields in
stream order; `rawb` and `lit` the byte; `run` the count byte and the run value. The others carry no encoded
field. -/
inductive Instr where
  | detect
  | magic (w : Word)
  | hdr (width height depth length type cmapType cmapLength : Word)
  | resolve
  | cmap
  | size
  | rawb (b : Byte)
  | esc0
  | run (c v : Byte)
  | lit (b : Byte)
  | asmG1
  | asmG8
  | asmRgb24
  | asmBgr24
  | asmIdx8
  | asmIdx1
  | asmRgba32
  deriving DecidableEq, Repr

end Sys2Proof
end

