-- ==== Sys2Proof/WellFormed.lean ====
section
/-! DEFINITION. Which operations the encoding can express (spec/30_encoding.md R70): a literal is not the escape
byte, and a run's count byte is not zero. Every other field takes every value (R64, R73). -/

namespace Sys2Proof

/-- The checks of R70: `LIT b` has `b != 0x80`, `RUN c, v` has `c != 0`. -/
def Instr.wellFormed : Instr → Bool
  | .lit b => b != Config.esc
  | .run c _ => c != 0
  | .detect => true
  | .magic _ => true
  | .hdr _ _ _ _ _ _ _ => true
  | .resolve => true
  | .cmap => true
  | .size => true
  | .rawb _ => true
  | .esc0 => true
  | .asmG1 => true
  | .asmG8 => true
  | .asmRgb24 => true
  | .asmBgr24 => true
  | .asmIdx8 => true
  | .asmIdx1 => true
  | .asmRgba32 => true

end Sys2Proof
end

