-- ==== Sys2Proof/Decode.lean ====
section
/-! DEFINITION. The decoder of spec/30_encoding.md (R60 to R64, R70 to R73, R75), total on any bytes under any
selection, rejecting by name; and after it the encoder, written from the same tables. -/

namespace Sys2Proof

/-- `u32be` (R5, R42): the first byte of the stream is the most significant. -/
def u32be (b0 b1 b2 b3 : Byte) : Word := b0 ++ b1 ++ b2 ++ b3

/-- The four stream bytes of a big-endian word, first byte most significant (R42). -/
def wordBytes (w : Word) : List Byte :=
  [w.extractLsb' 24 8, w.extractLsb' 16 8, w.extractLsb' 8 8, w.extractLsb' 0 8]

/-- The first four bytes as a big-endian word, and the bytes after them. -/
def takeWord : List Byte → Option (Word × List Byte)
  | b0 :: b1 :: b2 :: b3 :: rest => some (u32be b0 b1 b2 b3, rest)
  | _ => none

/-- The 28 header bytes as seven fields in the order of R61. -/
def decodeHeader (bytes : List Byte) : Option Instr := do
  let (width, bytes) ← takeWord bytes
  let (height, bytes) ← takeWord bytes
  let (depth, bytes) ← takeWord bytes
  let (length, bytes) ← takeWord bytes
  let (type, bytes) ← takeWord bytes
  let (cmapType, bytes) ← takeWord bytes
  let (cmapLength, _) ← takeWord bytes
  some (.hdr width height depth length type cmapType cmapLength)

/-- One RLE token (R70 to R72): the length is known after at most two bytes, and a byte is looked at only where the
token needs it. -/
def decodeToken : List Byte → Except DecodeReject Instr
  | [] => .error .streamEnd
  | t0 :: rest =>
    if t0 = Config.esc then
      match rest with
      | [] => .error .streamEnd
      | t1 :: rest =>
        if t1 = 0 then .ok .esc0
        else
          match rest with
          | [] => .error .streamEnd
          | t2 :: _ => .ok (.run t1 t2)
    else .ok (.lit t0)

/-- The assembly operation of a format and depth, the table of spec/42_pixel_assembler.md R150. -/
def decodeAsm (fmt : PixelFormat) (depth : Word) : Except DecodeReject Instr :=
  match fmt with
  | .grayscale1 => if depth = 1 then .ok .asmG1 else .error .noAssembly
  | .grayscale8 => if depth = 8 then .ok .asmG8 else .error .noAssembly
  | .rgb24 => if depth = 24 then .ok .asmRgb24 else .error .noAssembly
  | .bgr24 => if depth = 24 then .ok .asmBgr24 else .error .noAssembly
  | .indexed8 =>
    if depth = 8 then .ok .asmIdx8 else if depth = 1 then .ok .asmIdx1 else .error .noAssembly
  | .rgba32 => if depth = 32 then .ok .asmRgba32 else .error .noAssembly

/-- The decoder: the operation that a selection and the coming stream bytes give (R75). -/
def decode (sel : Sel) (bytes : List Byte) : Except DecodeReject Instr :=
  match sel with
  | .detect => .ok .detect
  | .magic =>
    match takeWord bytes with
    | some (w, _) => .ok (.magic w)
    | none => .error .streamEnd
  | .header =>
    match decodeHeader bytes with
    | some i => .ok i
    | none => .error .streamEnd
  | .resolve => .ok .resolve
  | .cmap => .ok .cmap
  | .size => .ok .size
  | .rawCopy =>
    match bytes with
    | b :: _ => .ok (.rawb b)
    | [] => .error .streamEnd
  | .rle => decodeToken bytes
  | .asm fmt depth => decodeAsm fmt depth

/-- The encoder: the stream bytes of an operation (R60, R61, R70). The operations that the phase alone selects have
none; `CMAP` and `DETECT` reach the stream by their own pulls and peek. -/
def encode : Instr → List Byte
  | .magic w => wordBytes w
  | .hdr width height depth length type cmapType cmapLength =>
    wordBytes width ++ wordBytes height ++ wordBytes depth ++ wordBytes length ++ wordBytes type ++
      wordBytes cmapType ++ wordBytes cmapLength
  | .rawb b => [b]
  | .esc0 => [Config.esc, 0]
  | .run c v => [Config.esc, c, v]
  | .lit b => [b]
  | .detect => []
  | .resolve => []
  | .cmap => []
  | .size => []
  | .asmG1 => []
  | .asmG8 => []
  | .asmRgb24 => []
  | .asmBgr24 => []
  | .asmIdx8 => []
  | .asmIdx1 => []
  | .asmRgba32 => []

/-- The selection under which an operation runs: the "Selected when" column of R75. -/
def Instr.selection : Instr → Sel
  | .detect => .detect
  | .magic _ => .magic
  | .hdr _ _ _ _ _ _ _ => .header
  | .resolve => .resolve
  | .cmap => .cmap
  | .size => .size
  | .rawb _ => .rawCopy
  | .esc0 => .rle
  | .run _ _ => .rle
  | .lit _ => .rle
  | .asmG1 => .asm .grayscale1 1
  | .asmG8 => .asm .grayscale8 8
  | .asmRgb24 => .asm .rgb24 24
  | .asmBgr24 => .asm .bgr24 24
  | .asmIdx8 => .asm .indexed8 8
  | .asmIdx1 => .asm .indexed8 1
  | .asmRgba32 => .asm .rgba32 32

/-- How many stream bytes the operation's own encoding takes (R21: 1, 2 or 3 for a token, 4 for `MAGIC`, 28 for
`HDR`). -/
def Instr.byteLength : Instr → Nat
  | .magic _ => 4
  | .hdr _ _ _ _ _ _ _ => Config.hdrBytes
  | .rawb _ => 1
  | .esc0 => 2
  | .run _ _ => 3
  | .lit _ => 1
  | .detect => 0
  | .resolve => 0
  | .cmap => 0
  | .size => 0
  | .asmG1 => 0
  | .asmG8 => 0
  | .asmRgb24 => 0
  | .asmBgr24 => 0
  | .asmIdx8 => 0
  | .asmIdx1 => 0
  | .asmRgba32 => 0

/-- The lowest `8 * n` bits of a number as `n` bytes, the most significant first. -/
def bigEndianBytes : Nat → Nat → List Byte
  | 0, _ => []
  | n + 1, w => BitVec.ofNat 8 (w / 2 ^ (8 * n)) :: bigEndianBytes n w

/-- The stream bytes of a row of spec/opcode_table.json: the table writes a row as ONE number with the first stream
byte in the most significant place (R70, "first byte in the most significant position"), and every byte after the
row's own is zero, up to the longest operation (28 bytes). Log entry 17. -/
def tableBytes (nbits w : Nat) : List Byte :=
  bigEndianBytes (nbits / 8) w ++ List.replicate Config.hdrBytes 0

/-- The selection a row's length stands for: 8, 16 and 24 bits are RLE tokens, 32 the magic, 224 the header. The
table has other rows of 8, 24 and 32 bits (`RAWB`, `ASM.*`, `DETECT`), which only their phase or command tells
apart. Log entry 17. -/
def tableSel (nbits : Nat) : Option Sel :=
  match nbits with
  | 8 => some .rle
  | 16 => some .rle
  | 24 => some .rle
  | 32 => some .magic
  | 224 => some .header
  | _ => none

/-- The operation the decoder reads from a row of the table. -/
def decodeTableWord (nbits w : Nat) : Option Instr :=
  match tableSel nbits with
  | none => none
  | some sel =>
    match decode sel (tableBytes nbits w) with
    | .ok i => some i
    | .error _ => none

end Sys2Proof
end

