-- ==== Sys2Proof/Machine/State.lean ====
section
/-! DEFINITION. The state of RASU (spec/10_state.md R10), the model's own fields beside it, the reasons a step can
stop, and the state after reset (R34, R210). -/

namespace Sys2Proof.Machine

/-- A store (spec/20_memory.md R40): index and value pairs, indices strictly rising. An index that is not listed
holds no value (R35): absent. For `RAW` the pairs are `Host.Cell`s. -/
abbrev Memory (α : Type) := List (Nat × α)

/-- The whole state. Groups A to F are R10's; the last group is the model's own (INVENTORY.md). -/
structure State where
  -- A. configuration (R11 to R17)
  cfgWidth : Word
  cfgHeight : Word
  cfgDepth : Word
  cfgLength : Word
  cfgType : RasType
  cfgCmapType : CmapType
  cfgCmapLength : Word
  -- B. derived configuration (R18, R19)
  palPresent : Bool
  fmt : PixelFormat
  bpp : BitVec 3
  rowBytes : Nat
  rawSize : Nat
  pixCount : Nat
  -- C. sequencer (R20, R21)
  phase : Phase
  ipos : Nat
  -- D. working registers (R22 to R24)
  rstate : RState
  rcount : BitVec 9
  rvalue : Byte
  opos : Nat
  ax : Nat
  ay : Nat
  cidx : Nat
  -- E. status (R25 to R28)
  busy : Bool
  done : Bool
  fault : Bool
  pixValid : Bool
  faultKind : FaultKind
  faultCause : FaultCause
  detectResult : Bool
  outWidth : Word
  outHeight : Word
  -- F. stores (R29 to R31)
  pal : Memory PalEntry
  palCount : BitVec 9
  raw : List Host.Cell
  pix : Memory Pixel
  -- the model's own: the stream content IN (R4, log entry 1), the OPEN parameters (R4, log entry 5), the host's
  -- coming moves (log entry 3), the counter of free values (log entry 8)
  input : List Byte
  params : Params
  pending : List HostMove
  freeCount : Nat
  deriving DecidableEq, Repr

/-- Why the model stops. None of these is a fault of the spec (those are taken, as a next state in phase `FAULT`);
each names an access or a choice that the spec says does not happen (R47, R150, R159), and no state that meets
`Machine.Inv` reaches one. -/
inductive Fault where
  /-- A read or write of `RAW` at an index not below `RAW_SIZE` (R30). Raised by `RAWB`, `LIT`, `ESC0`, `RUN`, the
  byte-level RLE machine and the assembly operations. Safe. -/
  | rawOutOfRange
  /-- A read of a `RAW` byte that holds no value (R35). Raised by the assembly operations. Safe. -/
  | rawUnwritten
  /-- A write of `PIX` at an index not below `PIX_COUNT` (R31). Raised by the assembly operations. Safe. -/
  | pixOutOfRange
  /-- Phase `ASSEMBLE` with a pair of `FMT` and `CFG.DEPTH` that R150's table does not have ("No other pair can
  occur"). Raised by the sequencer's dispatch. Safe. -/
  | noAssembly
  deriving DecidableEq, Repr

/-- Why the model refuses a move. Every constructor but the first is about a HOST move the spec refuses or leaves
outside itself. -/
inductive Refusal where
  /-- An instruction that `exec` gives no meaning yet, by its mnemonic. Raised by `exec` alone. Safe. -/
  | notModelled (mnemonic : String)
  /-- A palette read that R45 does not admit ("any other read is refused"). Raised by the host's `readPal`. Safe. -/
  | palReadRefused
  /-- A pixel read that R46 does not admit. Raised by the host's `readPix`. Safe. -/
  | pixReadRefused
  /-- A read of the write-only register `CMD` (R33). Raised by the host's `readReg`. Safe. -/
  | writeOnlyRegister
  /-- A read of `OUT_FMT`, `OUT_WIDTH`, `OUT_HEIGHT` or `PAL_COUNT` after a fault (R191, R35, R213, U8 "refuse every host
  read of it"). Raised by the host's `readReg`. Safe. -/
  | readAfterFault
  /-- A read of `OUT_FMT`, `OUT_WIDTH` or `OUT_HEIGHT` that the current command has not written (R35 "holds no value", R34
  "faults if read before written", D20; R213 forbids the read). Raised by the host's `readReg`. Safe. -/
  | registerUnwritten
  /-- A stream attached while `BUSY = 1` (R214, "a host that makes one is outside this spec"). Raised by the host's
  `attach`. Safe. -/
  | attachWhileBusy
  deriving DecidableEq, Repr

/-- The outcome of a step of this machine. -/
abbrev Out := Host.Outcome State Fault Refusal

/-- The state after reset (R34, R210). The registers for which R34 says "unspecified" are zero or the name with code
0: DESIGN CHOICE, log entry 4. The stores list nothing: every entry is absent. The stream before the host attaches one is
empty: DESIGN CHOICE, log entry 33. -/
def State.reset : State where
  cfgWidth := 0
  cfgHeight := 0
  cfgDepth := 0
  cfgLength := 0
  cfgType := .old
  cfgCmapType := .none
  cfgCmapLength := 0
  palPresent := false
  fmt := .grayscale1
  bpp := 0
  rowBytes := 0
  rawSize := 0
  pixCount := 0
  phase := .idle
  ipos := 0
  rstate := .rByte
  rcount := 0
  rvalue := 0
  opos := 0
  ax := 0
  ay := 0
  cidx := 0
  busy := false
  done := false
  fault := false
  pixValid := false
  faultKind := .none
  faultCause := .none
  detectResult := false
  outWidth := 0
  outHeight := 0
  pal := []
  palCount := 0
  raw := []
  pix := []
  input := []
  params := Config.paramsDefault
  pending := []
  freeCount := 0

end Sys2Proof.Machine
end

