-- ==== Sys2Proof/Machine/Ops.lean ====
section
/-! DEFINITION. The named operations over stores, stream, registers and phases (spec/00_scope.md R6,
spec/20_memory.md R40 to R47): reading and writing a store, pulling and peeking the stream, emitting a byte, taking a
fault (spec/60_exceptions.md R191), accepting a command (spec/40_frontend.md R96), entering a phase, completing. -/

namespace Sys2Proof.Machine

/-! ### Stores -/

/-- The value at an index, `none` where the index holds no value (R35). -/
def Memory.read {α : Type} : Memory α → Nat → Option α
  | [], _ => none
  | (a, x) :: m, k => if k = a then some x else Memory.read m k

/-- Writes one index and keeps the order of the list. -/
def Memory.write {α : Type} : Memory α → Nat → α → Memory α
  | [], k, v => [(k, v)]
  | (a, x) :: m, k, v =>
    if k < a then (k, v) :: (a, x) :: m
    else if k = a then (k, v) :: m
    else (a, x) :: Memory.write m k v

/-- Writes consecutive indices from `k` on, in ascending order. -/
def Memory.writeAll {α : Type} (m : Memory α) (k : Nat) : List α → Memory α
  | [] => m
  | x :: xs => Memory.writeAll (Memory.write m k x) (k + 1) xs

/-- Indices strictly rising and none below `lo`. -/
def Memory.wfFrom {α : Type} (lo : Nat) : Memory α → Bool
  | [] => true
  | (a, _) :: m => decide (lo ≤ a) && Memory.wfFrom (a + 1) m

/-- The canonical form: indices strictly rising, so equal stores are equal lists. An unlisted index reads as no
value, so no entry can equal what an unlisted index reads as. -/
def Memory.wf {α : Type} (m : Memory α) : Bool := Memory.wfFrom 0 m

/-! ### Taking a fault (R191) -/

/-- The kind of a cause, the table of R181. -/
def causeKind : FaultCause → FaultKind
  | .none => .none
  | .badMagic => .invalidData
  | .streamEnd => .invalidData
  | .badEnumCode => .invalidData
  | .paletteOverflow => .invalidData
  | .unsupportedDepth => .unsupported
  | .unsupportedColorMap => .unsupported
  | .unsupportedType => .unsupported
  | .capacityExceeded => .resource

/-- The release of the working state at a fault (R191, R56): the stores hold no value any more, the derived and
working registers and `PAL_COUNT` hold values that nothing constrains (free values, log entry 8). -/
def State.release (s : State) : State :=
  { s with
    palPresent := (Config.releasedRegs s.freeCount).palPresent
    fmt := (Config.releasedRegs s.freeCount).fmt
    bpp := (Config.releasedRegs s.freeCount).bpp
    rowBytes := (Config.releasedRegs s.freeCount).rowBytes
    rawSize := (Config.releasedRegs s.freeCount).rawSize
    pixCount := (Config.releasedRegs s.freeCount).pixCount
    rstate := (Config.releasedRegs s.freeCount).rstate
    rcount := (Config.releasedRegs s.freeCount).rcount
    rvalue := (Config.releasedRegs s.freeCount).rvalue
    opos := (Config.releasedRegs s.freeCount).opos
    ax := (Config.releasedRegs s.freeCount).ax
    ay := (Config.releasedRegs s.freeCount).ay
    cidx := (Config.releasedRegs s.freeCount).cidx
    palCount := (Config.releasedRegs s.freeCount).palCount
    pal := []
    raw := []
    pix := []
    freeCount := s.freeCount + 1 }

/-- `raise K(c)` (R191), the kind given by the cause (R181): one step, no handler, nothing saved. `DONE` and
`PIX_VALID` are 0 already and are not written. -/
def State.raise (s : State) (c : FaultCause) : State :=
  { s.release with
    faultKind := causeKind c
    faultCause := c
    phase := .fault
    busy := false
    fault := true }

/-! ### The stream (R6, R41) -/

/-- The bytes not yet pulled: `IN[IPOS ..]`. -/
def State.remaining (s : State) : List Byte := s.input.drop s.ipos

/-- The fault of a pull at the end of the stream (R183), after every byte before the end has been pulled: `IPOS`
stands at the end (R91, R191). -/
def State.raiseStreamEnd (s : State) : State :=
  ({ s with ipos := max s.ipos s.input.length }).raise .streamEnd

/-- One `StreamPull()` (R6). -/
def State.pull (s : State) (k : Byte → State → Out) : Out :=
  match s.input[s.ipos]? with
  | some b => k b { s with ipos := s.ipos + 1 }
  | none => .next s.raiseStreamEnd

/-- `n` calls of `StreamPull()` whose bytes the operation carries already (R41 "read-exactly-N"): `IPOS` advances by
`n`, or the stream ends first and the fault is taken. -/
def State.consume (s : State) (n : Nat) (k : State → Out) : Out :=
  if s.ipos + n ≤ s.input.length then k { s with ipos := s.ipos + n }
  else .next s.raiseStreamEnd

/-- `StreamPeek(n)` (R6): the next `n` bytes, or `none` when fewer remain. No side effect. -/
def State.peek (s : State) (n : Nat) : Option (List Byte) :=
  if s.ipos + n ≤ s.input.length then some ((s.input.drop s.ipos).take n) else none

/-! ### RAW and PIX accesses (R30, R31, R47) -/

/-- `RAW[i]`: a byte below `RAW_SIZE` that holds a value. -/
def State.readRaw (s : State) (i : Nat) : Except Fault Byte :=
  if i < s.rawSize then
    match Memory.read s.raw i with
    | some b => .ok b
    | none => .error .rawUnwritten
  else .error .rawOutOfRange

/-- `emit(v)` (R122): `RAW[OPOS] <- v; OPOS <- OPOS + 1`, below `RAW_SIZE` only. -/
def State.emit (s : State) (v : Byte) (k : State → Out) : Out :=
  if s.opos < s.rawSize then
    k { s with raw := Memory.write s.raw s.opos v, opos := s.opos + 1 }
  else .fault .rawOutOfRange

/-- `PIX[p] <- e`, below `PIX_COUNT` only. -/
def State.writePix (s : State) (p : Nat) (e : Pixel) (k : State → Out) : Out :=
  if p < s.pixCount then k { s with pix := Memory.write s.pix p e }
  else .fault .pixOutOfRange

/-! ### Commands (R96, R211) -/

/-- The acceptance of a command: the flags, the fault record and the palette are cleared, `BUSY` is set. `CFG`,
`IPOS`, `PIX` and `RAW` are left (R211). The phase is the command's. -/
def State.accept (s : State) : State :=
  { s with
    faultKind := .none
    faultCause := .none
    done := false
    fault := false
    pixValid := false
    detectResult := false
    palCount := 0
    pal := []
    busy := true }

/-- Reset asserted by the host (R210), in any phase: the state after reset, the running command abandoned. The
stream is not part of the block: its bytes not yet pulled stay, and the count of pulled bytes starts again. The
parameters, the host's coming moves and the free values' counter are not the block's registers. Log entry 19. -/
def State.hostReset (s : State) : State :=
  { State.reset with
    input := s.remaining
    params := s.params
    pending := s.pending
    freeCount := s.freeCount }

/-! ### Phases (R120, R150, R158) -/

/-- The mode of `DECOMP`, a function of `CFG.TYPE` (R120); `none` where the type is unsupported (R132). -/
def RasType.decompMode : RasType → Option DecompMode
  | .old => some .rawCopy
  | .standard => some .rawCopy
  | .rgb => some .rawCopy
  | .byteEncoded => some .rle
  | .tiff => none
  | .iff => none
  | .experimental => none
  | .code7 => none

/-- Entry to `ASSEMBLE` (R150). -/
def State.enterAssemble (s : State) : State := { s with phase := .assemble, ax := 0, ay := 0 }

/-- Entry to `DECOMP` (R120): `OPOS` and `RSTATE` get their initial values, `RCOUNT` and `RVALUE` are unspecified
(R22; free values, log entry 9); the type is checked before the zero-size exit. -/
def State.enterDecomp (s : State) : State :=
  match RasType.decompMode s.cfgType with
  | none => s.raise .unsupportedType
  | some _ =>
    let t : State :=
      { s with
        opos := 0
        rstate := .rByte
        rcount := (Config.releasedRegs s.freeCount).rcount
        rvalue := (Config.releasedRegs s.freeCount).rvalue
        freeCount := s.freeCount + 1 }
    if s.rawSize = 0 then t.enterAssemble else t

/-- What the sequencer does on entering the state's phase: `CIDX <- 0` for `CMAP` (R24), R120 for `DECOMP`, R150 for
`ASSEMBLE`, nothing for the others. -/
def State.enter (s : State) : State :=
  match s.phase with
  | .cmap => { s with cidx := 0 }
  | .decomp => s.enterDecomp
  | .assemble => s.enterAssemble
  | .idle => s
  | .magic => s
  | .header => s
  | .resolve => s
  | .size => s
  | .done => s
  | .fault => s

/-- The phase entry that follows an operation which changed the phase (log entry 24). -/
def enterPhase (before : Phase) : Out → Out
  | .next t => .next (if t.phase = before then t else t.enter)
  | .fault f => .fault f
  | .refused r => .refused r

/-- After an emit of the RLE machine: leave `DECOMP` when `RAW` is full, else the next token (R122). `RSTATE` is
`R_BYTE` either way (log entry 13). -/
def State.afterToken (s : State) : State :=
  if s.opos = s.rawSize then { s with phase := .assemble, rstate := .rByte } else { s with rstate := .rByte }

/-- Completion (R158, R96): the result is declared valid, `RAW` is released (R56). -/
def State.complete (s : State) : State :=
  { s with
    outWidth := s.cfgWidth
    outHeight := s.cfgHeight
    phase := .done
    busy := false
    done := true
    pixValid := true
    raw := [] }

end Sys2Proof.Machine
end

