-- ==== Sys2Proof/Machine/Operands.lean ====
section
/-! DEFINITION. The operand forms: register codes of the enumerations (spec/10_state.md R15, R16, R18, R20), stream
codes (spec/30_encoding.md R62, R63), the planes of the colour map (R65), the run count (R76), the bitmap bit, byte
and channel accesses (R43, R66 to R69), and the byte view of an element (spec/20_memory.md R44). -/

namespace Sys2Proof.Machine

/-! ### Register codes -/

/-- R15. -/
def RasType.code : RasType → BitVec 3
  | .old => 0
  | .standard => 1
  | .byteEncoded => 2
  | .rgb => 3
  | .tiff => 4
  | .iff => 5
  | .experimental => 6
  | .code7 => 7

/-- R15: the type of a 3-bit register code. -/
def RasType.ofCode (c : BitVec 3) : RasType :=
  if c = 0 then .old
  else if c = 1 then .standard
  else if c = 2 then .byteEncoded
  else if c = 3 then .rgb
  else if c = 4 then .tiff
  else if c = 5 then .iff
  else if c = 6 then .experimental
  else .code7

/-- R16. -/
def CmapType.code : CmapType → BitVec 2
  | .none => 0
  | .rgb => 1
  | .raw => 2
  | .code3 => 3

/-- R16: the colour-map type of a 2-bit register code. -/
def CmapType.ofCode (c : BitVec 2) : CmapType :=
  if c = 0 then .none else if c = 1 then .rgb else if c = 2 then .raw else .code3

/-- R18. -/
def PixelFormat.code : PixelFormat → BitVec 3
  | .grayscale1 => 0
  | .grayscale8 => 1
  | .indexed8 => 2
  | .rgb24 => 3
  | .bgr24 => 4
  | .rgba32 => 5

/-- R20. -/
def Phase.code : Phase → BitVec 4
  | .idle => 0
  | .magic => 1
  | .header => 2
  | .resolve => 3
  | .cmap => 4
  | .size => 5
  | .decomp => 6
  | .assemble => 7
  | .done => 8
  | .fault => 9

/-! ### Stream codes -/

/-- The name whose `TYPE_CODE` is the value (R92), the first in the source's listing order (log entry 7). -/
def typeOfCode (t : TypeCode) (w : Word) : Option RasType :=
  if w = t.old then some .old
  else if w = t.standard then some .standard
  else if w = t.byteEncoded then some .byteEncoded
  else if w = t.rgb then some .rgb
  else if w = t.tiff then some .tiff
  else if w = t.iff then some .iff
  else if w = t.experimental then some .experimental
  else none

/-- The name whose `CMAP_CODE` is the value (R92). -/
def cmapTypeOfCode (t : CmapCode) (w : Word) : Option CmapType :=
  if w = t.none then some .none
  else if w = t.rgb then some .rgb
  else if w = t.raw then some .raw
  else none

/-- The stream code of a type name (R62); register code 7 names no type and has none. -/
def codeOfType (t : TypeCode) : RasType → Option Word
  | .old => some t.old
  | .standard => some t.standard
  | .byteEncoded => some t.byteEncoded
  | .rgb => some t.rgb
  | .tiff => some t.tiff
  | .iff => some t.iff
  | .experimental => some t.experimental
  | .code7 => none

/-- The stream code of a colour-map type name (R63); register code 3 has none. -/
def codeOfCmapType (t : CmapCode) : CmapType → Option Word
  | .none => some t.none
  | .rgb => some t.rgb
  | .raw => some t.raw
  | .code3 => none

/-- The codes of a table are pairwise different, so that a value names at most one enumerator. -/
def codesDistinct (p : Params) : Bool :=
  decide
    ([p.typeCode.old, p.typeCode.standard, p.typeCode.byteEncoded, p.typeCode.rgb, p.typeCode.tiff, p.typeCode.iff,
        p.typeCode.experimental].Nodup ∧
      [p.cmapCode.none, p.cmapCode.rgb, p.cmapCode.raw].Nodup)

/-! ### The colour map -/

/-- Entry `i` of the palette: byte `i` of each of the three planes of `n` bytes, alpha opaque (R65, R94). -/
def paletteEntry (cm : List Byte) (n i : Nat) : PalEntry :=
  { r := cm.getD i 0, g := cm.getD (n + i) 0, b := cm.getD (2 * n + i) 0, a := Config.alphaOpaque }

/-- The `n` entries in ascending order. -/
def paletteEntries (cm : List Byte) (n : Nat) : List PalEntry := (List.range n).map (paletteEntry cm n)

/-! ### The run count -/

/-- `zext_9(c) + 1` (R76): 2 to 256, no overflow of 9 bits. -/
def runCount (c : Byte) : BitVec 9 := c.setWidth 9 + 1

/-! ### Bitmap accesses -/

/-- Bit `7 - (x mod 8)` of a row byte: pixel column `x`, most significant bit first (R43). -/
def bitmapBit (b : Byte) (x : Nat) : Bool := b.getLsbD (7 - x % 8)

/-- The bitmap bit of row `y`, column `x`: rows start at multiples of `ROW_BYTES` (R66, R151). -/
def State.rowBit (s : State) (y x : Nat) : Except Fault Bool := do
  let b ← s.readRaw (y * s.rowBytes + x / 8)
  .ok (bitmapBit b x)

/-- The index of the element at row `y`, column `x` (R23, R31). -/
def State.pixIndex (s : State) (y x : Nat) : Nat := y * s.cfgWidth.toNat + x

/-! ### The byte view -/

/-- The byte view of an element: its channels in the order of the format's name; none is defined for `grayscale1`
(R44, R79). -/
def Pixel.byteView : Pixel → Option (List Byte)
  | .grayscale1 _ => none
  | .grayscale8 v => some [v]
  | .indexed8 i => some [i]
  | .rgb24 r g b => some [r, g, b]
  | .bgr24 b g r => some [b, g, r]
  | .rgba32 r g b a => some [r, g, b, a]

/-- The format that an element is tagged with (R79). -/
def Pixel.format : Pixel → PixelFormat
  | .grayscale1 _ => .grayscale1
  | .grayscale8 _ => .grayscale8
  | .indexed8 _ => .indexed8
  | .rgb24 _ _ _ => .rgb24
  | .bgr24 _ _ _ => .bgr24
  | .rgba32 _ _ _ _ => .rgba32

/-- `pix_data` of the pixel read port (decision D2): the element zero-extended to 32 bits, channels in byte-view order
from the most significant used byte. -/
def Pixel.portData : Pixel → Word
  | .grayscale1 v => v.setWidth 32
  | .grayscale8 v => v.setWidth 32
  | .indexed8 i => i.setWidth 32
  | .rgb24 r g b => u32be 0 r g b
  | .bgr24 b g r => u32be 0 b g r
  | .rgba32 r g b a => u32be r g b a

/-- `pal_data` of the palette read port (decision D2): `r ++ g ++ b ++ a`. -/
def PalEntry.portData (e : PalEntry) : Word := u32be e.r e.g e.b e.a

end Sys2Proof.Machine
end

