-- ==== Sys2Proof/Machine/Flags.lean ====
section
/-! DEFINITION. The status flags: what each phase makes of them (spec/10_state.md R25), the words `STATUS` and
`FAULT_INFO` (R33), the fault kind and cause codes (R26, R181), and the optional output `irq`
(spec/60_exceptions.md R194). There are no arithmetic flags (R25). -/

namespace Sys2Proof.Machine

/-- The phases in which `BUSY = 1` (R25): `MAGIC` to `ASSEMBLE`. -/
def Phase.isBusy : Phase → Bool
  | .idle => false
  | .magic => true
  | .header => true
  | .resolve => true
  | .cmap => true
  | .size => true
  | .decomp => true
  | .assemble => true
  | .done => false
  | .fault => false

/-- R26. -/
def FaultKind.code : FaultKind → BitVec 2
  | .none => 0
  | .invalidData => 1
  | .unsupported => 2
  | .resource => 3

/-- R181. -/
def FaultCause.code : FaultCause → BitVec 4
  | .none => 0
  | .badMagic => 1
  | .streamEnd => 2
  | .badEnumCode => 3
  | .paletteOverflow => 4
  | .unsupportedDepth => 5
  | .unsupportedColorMap => 6
  | .unsupportedType => 7
  | .capacityExceeded => 8

/-- A flag as the low bit of a word. -/
def flagBit (b : Bool) : Word := if b then 1 else 0

/-- `STATUS` (R33, register 7): bit 0 `BUSY`, bit 1 `DONE`, bit 2 `FAULT`, bit 3 `PIX_VALID`, bit 4 `DETECT_RESULT`,
bits 11:8 `PHASE`, others 0. -/
def State.statusWord (s : State) : Word :=
  flagBit s.busy ||| (flagBit s.done <<< 1) ||| (flagBit s.fault <<< 2) ||| (flagBit s.pixValid <<< 3) |||
    (flagBit s.detectResult <<< 4) ||| ((Phase.code s.phase).setWidth 32 <<< 8)

/-- `FAULT_INFO` (R33, register 8): bits 1:0 `FAULT_KIND`, bits 7:4 `FAULT_CAUSE`, others 0. -/
def State.faultInfoWord (s : State) : Word :=
  (FaultKind.code s.faultKind).setWidth 32 ||| ((FaultCause.code s.faultCause).setWidth 32 <<< 4)

/-- The optional output of R194: `irq = DONE or FAULT`. -/
def State.irq (s : State) : Bool := s.done || s.fault

end Sys2Proof.Machine
end

