-- ==== Sys2Proof/Machine/Assembler.lean ====
section
/-! DEFINITION. The pixel assembler (spec/42_pixel_assembler.md R150 to R158): seven operations, each a function from
row and column to the element, run over the image in row-major order. -/

namespace Sys2Proof.Machine

/-- The element that an assembly operation makes at a row and a column, read from `RAW` and `CFG`. -/
abbrev Element := State → Nat → Nat → Except Fault Pixel

/-- R151: the inverted bit. -/
def elementG1 : Element := fun s y x => do
  let bit ← s.rowBit y x
  .ok (.grayscale1 (if bit then 0 else 1))

/-- R152: the byte. -/
def elementG8 : Element := fun s y x => do
  let v ← s.readRaw (s.pixIndex y x)
  .ok (.grayscale8 v)

/-- R153: three bytes as `(r, g, b)`. -/
def elementRgb24 : Element := fun s y x => do
  let r ← s.readRaw (3 * s.pixIndex y x)
  let g ← s.readRaw (3 * s.pixIndex y x + 1)
  let b ← s.readRaw (3 * s.pixIndex y x + 2)
  .ok (.rgb24 r g b)

/-- R154: three bytes as `(b, g, r)`. -/
def elementBgr24 : Element := fun s y x => do
  let b ← s.readRaw (3 * s.pixIndex y x)
  let g ← s.readRaw (3 * s.pixIndex y x + 1)
  let r ← s.readRaw (3 * s.pixIndex y x + 2)
  .ok (.bgr24 b g r)

/-- R155: the byte as an index, unchecked. -/
def elementIdx8 : Element := fun s y x => do
  let i ← s.readRaw (s.pixIndex y x)
  .ok (.indexed8 i)

/-- R156: the bit as an index, inverted where `IDX1_INVERT` is true. -/
def elementIdx1 : Element := fun s y x => do
  let bit ← s.rowBit y x
  .ok (.indexed8 (if Bool.xor bit s.params.idx1Invert then 1 else 0))

/-- R157: the pad byte is read and discarded, the other three are ordered by the type, alpha is opaque. -/
def elementRgba32 : Element := fun s y x => do
  let _ ← s.readRaw (4 * s.pixIndex y x)
  let b1 ← s.readRaw (4 * s.pixIndex y x + 1)
  let b2 ← s.readRaw (4 * s.pixIndex y x + 2)
  let b3 ← s.readRaw (4 * s.pixIndex y x + 3)
  .ok (if s.cfgType = .rgb then .rgba32 b1 b2 b3 Config.alphaOpaque else .rgba32 b3 b2 b1 Config.alphaOpaque)

/-- The next pixel in row-major order: `AX` runs from 0 to `WIDTH - 1`, then `AY` advances (R151). -/
def State.nextPixel (s : State) : State :=
  if s.ax + 1 = s.cfgWidth.toNat then { s with ax := 0, ay := s.ay + 1 } else { s with ax := s.ax + 1 }

/-- Writes the elements from (`AY`, `AX`) on, as many as the count says, and completes after the last (R158). -/
def assembleRun (elem : Element) : Nat → State → Out
  | 0, s => .next s.complete
  | k + 1, s =>
    match elem s s.ay s.ax with
    | .error f => .fault f
    | .ok e =>
      s.writePix (s.pixIndex s.ay s.ax) e fun s =>
        if k = 0 then .next s.complete else assembleRun elem k s.nextPixel

/-- A whole assembly operation: the elements from the one at (`AY`, `AX`) to the last, `PIX_COUNT - 1`. `AX` and `AY`
are 0 at the entry to `ASSEMBLE` (R150), so that is all of them; nothing is written when `PIX_COUNT = 0`. -/
def State.assemble (s : State) (elem : Element) : Out :=
  assembleRun elem (s.pixCount - s.pixIndex s.ay s.ax) s

/-- `ASM.G1` (R151). -/
def execAsmG1 (s : State) : Out := s.assemble elementG1

/-- `ASM.G8` (R152). -/
def execAsmG8 (s : State) : Out := s.assemble elementG8

/-- `ASM.RGB24` (R153). -/
def execAsmRgb24 (s : State) : Out := s.assemble elementRgb24

/-- `ASM.BGR24` (R154). -/
def execAsmBgr24 (s : State) : Out := s.assemble elementBgr24

/-- `ASM.IDX8` (R155). -/
def execAsmIdx8 (s : State) : Out := s.assemble elementIdx8

/-- `ASM.IDX1` (R156). -/
def execAsmIdx1 (s : State) : Out := s.assemble elementIdx1

/-- `ASM.RGBA32` (R157). -/
def execAsmRgba32 (s : State) : Out := s.assemble elementRgba32

end Sys2Proof.Machine
end

