-- ==== Sys2Proof/Machine/Decompressor.lean ====
section
/-! DEFINITION. The decompressor (spec/41_rle_decompressor.md): `RAWB` (R121), the tokens `LIT` (R123), `ESC0` (R124),
`RUN` (R125) one token at a time (R127), and the byte-level RLE machine (R122). -/

namespace Sys2Proof.Machine

/-- `RAWB` (R121): one bitmap byte, copied as it is. -/
def execRawb (b : Byte) (s : State) : Out :=
  s.consume 1 fun s => s.emit b fun s =>
    .next (if s.opos = s.rawSize then { s with phase := .assemble } else s)

/-- `LIT b` (R123). -/
def execLit (b : Byte) (s : State) : Out :=
  s.consume 1 fun s => s.emit b fun s => .next s.afterToken

/-- `ESC0` (R124): one literal `0x80`. -/
def execEsc0 (s : State) : Out :=
  s.consume 2 fun s => s.emit Config.esc fun s => .next s.afterToken

/-- The `repeat` of R125: emit `RVALUE`, count down, leave when `RAW` is full, end when the count is used up. The
first argument is the value of `RCOUNT`. -/
def emitRun : Nat → State → Out
  | 0, s => .next s.afterToken
  | k + 1, s =>
    s.emit s.rvalue fun s =>
      let s : State := { s with rcount := s.rcount - 1 }
      if s.opos = s.rawSize then .next s.afterToken else emitRun k s

/-- `RUN c, v` (R125): the whole token is consumed, then `c + 1` copies of `v` or as many as fit. -/
def execRun (c v : Byte) (s : State) : Out :=
  s.consume 3 fun s =>
    let s : State := { s with rcount := runCount c, rvalue := v }
    emitRun s.rcount.toNat s

/-- One transition of the byte-level RLE machine, the table of R122: it pulls exactly one byte, or in `R_RUN` emits
one byte without pulling. -/
def rleTransition (s : State) : Out :=
  match s.rstate with
  | .rByte =>
    s.pull fun b s =>
      if b = Config.esc then .next { s with rstate := .rCount }
      else s.emit b fun s => .next s.afterToken
  | .rCount =>
    s.pull fun c s =>
      if c = 0 then s.emit Config.esc fun s => .next s.afterToken
      else .next { s with rcount := runCount c, rstate := .rValue }
  | .rValue => s.pull fun b s => .next { s with rvalue := b, rstate := .rRun }
  | .rRun =>
    s.emit s.rvalue fun s =>
      let s : State := { s with rcount := s.rcount - 1 }
      if s.opos = s.rawSize then .next s.afterToken
      else if s.rcount = 0 then .next { s with rstate := .rByte }
      else .next s

/-- `n` transitions in a row; a transition that does not answer a next state ends them. -/
def rleTransitions : Nat → State → Out
  | 0, s => .next s
  | n + 1, s =>
    match rleTransition s with
    | .next t => rleTransitions n t
    | .fault f => .fault f
    | .refused r => .refused r

end Sys2Proof.Machine
end

