-- ==== Sys2Proof/Machine/FrontEnd.lean ====
section
/-! DEFINITION. The front-end operations (spec/40_frontend.md R90 to R95): `DETECT`, `MAGIC`, `HDR`, `RESOLVE`,
`CMAP`, `SIZE`. -/

namespace Sys2Proof.Machine

/-- `DETECT` (R90): the probe. No byte is consumed and there is no fault. -/
def execDetect (s : State) : Out :=
  .next
    { s with
      detectResult := s.peek 4 == some (wordBytes Config.magic)
      phase := .done
      busy := false
      done := true }

/-- `MAGIC` (R91): four bytes are pulled, then compared. -/
def execMagic (w : Word) (s : State) : Out :=
  s.consume 4 fun s =>
    if w = Config.magic then .next { s with phase := .header } else .next (s.raise .badMagic)

/-- `HDR` (R92): 28 bytes are pulled, five registers written, then the two enumeration codes looked up. -/
def execHdr (width height depth length type cmapType cmapLength : Word) (s : State) : Out :=
  s.consume Config.hdrBytes fun s =>
    let s : State :=
      { s with
        cfgWidth := width
        cfgHeight := height
        cfgDepth := depth
        cfgLength := length
        cfgCmapLength := cmapLength }
    match typeOfCode s.params.typeCode type, cmapTypeOfCode s.params.cmapCode cmapType with
    | some t, some c => .next { s with cfgType := t, cfgCmapType := c, phase := .resolve }
    | _, _ => .next (s.raise .badEnumCode)

/-- The format of a depth, a type and the presence of a palette (R93); `none` for every other depth. -/
def resolveFormat (depth : Word) (type : RasType) (palPresent : Bool) : Option PixelFormat :=
  if depth = 24 then some (if type = .rgb then .rgb24 else .bgr24)
  else if depth = 32 then some .rgba32
  else if depth = 8 then some (if palPresent then .indexed8 else .grayscale8)
  else if depth = 1 then some (if palPresent then .indexed8 else .grayscale1)
  else none

/-- `RESOLVE` (R93). -/
def execResolve (s : State) : Out :=
  let s : State := { s with palPresent := decide (0 < s.cfgCmapLength.toNat) }
  match resolveFormat s.cfgDepth s.cfgType s.palPresent with
  | some f => .next { s with fmt := f, phase := .cmap }
  | none => .next (s.raise .unsupportedDepth)

/-- The colour-map load of R94 for a map of `CFG.CMAP_LENGTH` bytes and `n` entries: every byte is pulled, then the
entries are written in ascending order, then `PAL_COUNT`. `CIDX` keeps the index of the last byte (log entry 14). -/
def State.loadPalette (s : State) (n : Nat) : Out :=
  let cm := s.remaining.take s.cfgCmapLength.toNat
  s.consume s.cfgCmapLength.toNat fun s =>
    .next
      { s with
        cidx := s.cfgCmapLength.toNat - 1
        pal := Memory.writeAll s.pal 0 (paletteEntries cm n)
        palCount := BitVec.ofNat 9 n
        phase := .size }

/-- `CMAP` (R94). -/
def execCmap (s : State) : Out :=
  match s.cfgCmapType with
  | .rgb =>
    if 0 < s.cfgCmapLength.toNat then
      if Config.palCapacity < s.cfgCmapLength.toNat / 3 then .next (s.raise .paletteOverflow)
      else s.loadPalette (s.cfgCmapLength.toNat / 3)
    else .next { s with phase := .size }
  | .none => .next { s with phase := .size }
  | .raw => .next (s.raise .unsupportedColorMap)
  | .code3 => .next (s.raise .unsupportedColorMap)

/-- Bytes per pixel (R95): `max(1, depth / 8)`, and 1 at depth 1. -/
def bytesPerPixel (depth : Nat) : Nat := if depth = 1 then 1 else max 1 (depth / 8)

/-- `ROW_BYTES` (R95): at depth 1 `ceil(width / 8)` rounded up to even, else `width` times the bytes per pixel. -/
def rowBytesOf (width depth : Nat) : Nat :=
  if depth = 1 then (width + 7) / 8 + (width + 7) / 8 % 2 else width * bytesPerPixel depth

/-- `RAW_SIZE` (R95), exact. -/
def rawSizeOf (width height depth : Nat) : Nat :=
  if depth = 1 then rowBytesOf width depth * height else width * height * bytesPerPixel depth

/-- `SIZE` (R95): sizes on naturals, then the capacity check. -/
def execSize (s : State) : Out :=
  let s : State :=
    { s with
      bpp := BitVec.ofNat 3 (bytesPerPixel s.cfgDepth.toNat)
      rowBytes := rowBytesOf s.cfgWidth.toNat s.cfgDepth.toNat
      rawSize := rawSizeOf s.cfgWidth.toNat s.cfgHeight.toNat s.cfgDepth.toNat
      pixCount := s.cfgWidth.toNat * s.cfgHeight.toNat }
  if s.params.rawCapacity < s.rawSize ∨ s.params.pixCapacity < s.pixCount then
    .next (s.raise .capacityExceeded)
  else .next { s with phase := .decomp }

end Sys2Proof.Machine
end

