-- ==== Sys2Proof/Machine/Dispatch.lean ====
section
/-! DEFINITION. The dispatch: one arm per operation of spec/30_encoding.md R75. -/

namespace Sys2Proof.Machine

/-- The effect of one operation on the state. -/
def exec (i : Instr) (s : State) : Host.Outcome State Fault Refusal :=
  match i with
  | .detect => Sys2Proof.Machine.execDetect s
  | .magic w => Sys2Proof.Machine.execMagic w s
  | .hdr width height depth length type cmapType cmapLength => Sys2Proof.Machine.execHdr width height depth length type cmapType cmapLength s
  | .resolve => Sys2Proof.Machine.execResolve s
  | .cmap => Sys2Proof.Machine.execCmap s
  | .size => Sys2Proof.Machine.execSize s
  | .rawb b => Sys2Proof.Machine.execRawb b s
  | .esc0 => Sys2Proof.Machine.execEsc0 s
  | .run c v => Sys2Proof.Machine.execRun c v s
  | .lit b => Sys2Proof.Machine.execLit b s
  | .asmG1 => Sys2Proof.Machine.execAsmG1 s
  | .asmG8 => Sys2Proof.Machine.execAsmG8 s
  | .asmRgb24 => Sys2Proof.Machine.execAsmRgb24 s
  | .asmBgr24 => Sys2Proof.Machine.execAsmBgr24 s
  | .asmIdx8 => Sys2Proof.Machine.execAsmIdx8 s
  | .asmIdx1 => Sys2Proof.Machine.execAsmIdx1 s
  | .asmRgba32 => Sys2Proof.Machine.execAsmRgba32 s

end Sys2Proof.Machine
end

