-- ==== Sys2Proof/Machine/Sequencer.lean ====
section
/-! DEFINITION. The sequencer's step (spec/40_frontend.md R96, R97) and the placing of an operation's bytes where the
next step fetches them. -/

namespace Sys2Proof.Machine

/-- What the phase and the configuration select (R75): `none` in the resting phases, and in `DECOMP` with a type that
has no mode. -/
def State.selection (s : State) : Option Sel :=
  match s.phase with
  | .idle => none
  | .magic => some .magic
  | .header => some .header
  | .resolve => some .resolve
  | .cmap => some .cmap
  | .size => some .size
  | .decomp =>
    match RasType.decompMode s.cfgType with
    | some .rawCopy => some .rawCopy
    | some .rle => some .rle
    | none => none
  | .assemble => some (.asm s.fmt s.cfgDepth)
  | .done => none
  | .fault => none

/-- Inside a token: `DECOMP` in RLE mode and `RSTATE` not `R_BYTE` (R122). The token steps of this model never leave
the machine there, but the state can be written down. -/
def State.midToken (s : State) : Bool :=
  s.phase == .decomp && RasType.decompMode s.cfgType == some .rle && s.rstate != .rByte

/-- One step of the sequencer: nothing in a resting phase (R96, R210); the rest of a token, byte by byte, where one is
under way (R122); else the operation that the phase selects and the coming stream bytes give, with the phase entry
that follows it. A stream that ends inside the operation's bytes is `StreamEnd` (R183). -/
def seqStep (s : State) : Out :=
  if Phase.isBusy s.phase then
    if s.midToken then enterPhase s.phase (rleTransition s)
    else
      match s.selection with
      | none => .next (s.raise .unsupportedType)
      | some sel =>
        match decode sel s.remaining with
        | .ok i => enterPhase s.phase (exec i s)
        | .error .streamEnd => .next s.raiseStreamEnd
        | .error .noAssembly => .fault .noAssembly
  else .next s

/-- The state in which the next step runs the operation that a row of the table encodes: its bytes come next in the
stream, and the phase, the type and room in `RAW` select it. Log entries 17 and 18. -/
def State.placeTableWord (s : State) (nbits w : Nat) : State :=
  let s : State :=
    { s with input := s.input.takeD s.ipos 0 ++ tableBytes nbits w, pending := [] }
  match tableSel nbits with
  | some .magic => { s with phase := .magic, busy := true, done := false, fault := false, pixValid := false }
  | some .header => { s with phase := .header, busy := true, done := false, fault := false, pixValid := false }
  | some .rle =>
    { s with
      phase := .decomp
      busy := true
      done := false
      fault := false
      pixValid := false
      cfgType := .byteEncoded
      rstate := .rByte
      rawSize := if s.opos < s.rawSize then s.rawSize else s.opos + 256 }
  | _ => s

end Sys2Proof.Machine
end

