-- ==== Sys2Proof/Machine/HostPort.lean ====
section
/-! DEFINITION. The host's side (spec/10_state.md R33, spec/20_memory.md R45, R46, spec/40_frontend.md R96,
spec/70_reset_and_hazards.md R210 to R214): the register port, the commands, the read ports, the stream and reset. -/

namespace Sys2Proof.Machine

/-- Whether `FMT` holds a value (R35): the current command's `RESOLVE` has written it (R93, R96), and no fault has
released it (R191). In `IDLE`, where no command has been accepted since reset, it is the reset value of log entry 4. Log
entry 32. -/
def State.fmtHeld (s : State) : Bool :=
  match s.phase with
  | .idle => true
  | .magic => false
  | .header => false
  | .resolve => false
  | .cmap => true
  | .size => true
  | .decomp => true
  | .assemble => true
  | .done => s.pixValid
  | .fault => false

/-- Whether `OUT_WIDTH` and `OUT_HEIGHT` hold a value (R35): the current command has completed a decode (R28). In `IDLE`
it is the reset value of log entry 4. Log entry 32. -/
def State.outHeld (s : State) : Bool :=
  match s.phase with
  | .idle => true
  | .magic => false
  | .header => false
  | .resolve => false
  | .cmap => false
  | .size => false
  | .decomp => false
  | .assemble => false
  | .done => s.pixValid
  | .fault => false

/-- Whether `PAL_COUNT` holds a value: acceptance and `CMAP` write it (R29, R211), a fault releases it (R191). -/
def State.palCountHeld (s : State) : Bool := s.phase != .fault

/-- A read of a register (R33), zero-extended; `none` for `CMD`, which is write only, and for `OUT_FMT`, `OUT_WIDTH`,
`OUT_HEIGHT` and `PAL_COUNT` where they hold no value (R35, R191, U8). A read has no side effect. -/
def State.hostReadReg (s : State) (n : BitVec 4) : Option Word :=
  if n = 0 then some s.cfgWidth
  else if n = 1 then some s.cfgHeight
  else if n = 2 then some s.cfgDepth
  else if n = 3 then some s.cfgLength
  else if n = 4 then some ((RasType.code s.cfgType).setWidth 32)
  else if n = 5 then some ((CmapType.code s.cfgCmapType).setWidth 32)
  else if n = 6 then some s.cfgCmapLength
  else if n = 7 then some s.statusWord
  else if n = 8 then some s.faultInfoWord
  else if n = 9 then (if s.fmtHeld then some ((PixelFormat.code s.fmt).setWidth 32) else none)
  else if n = 10 then (if s.outHeld then some s.outWidth else none)
  else if n = 11 then (if s.outHeld then some s.outHeight else none)
  else if n = 12 then (if s.palCountHeld then some (s.palCount.setWidth 32) else none)
  else if n = 13 then some (BitVec.ofNat 32 s.ipos)
  else if n = 14 then some (BitVec.ofNat 32 (s.ipos / 2 ^ 32))
  else none

/-- A palette read (R45): admitted only when `PIX_VALID = 1` and the index is below `PAL_COUNT`. -/
def State.hostReadPal (s : State) (i : Nat) : Option Word :=
  if s.pixValid && decide (i < s.palCount.toNat) then (Memory.read s.pal i).map PalEntry.portData else none

/-- A pixel read (R46): admitted only when `PIX_VALID = 1` and the index is below `PIX_COUNT`. -/
def State.hostReadPix (s : State) (p : Nat) : Option Word :=
  if s.pixValid && decide (p < s.pixCount) then (Memory.read s.pix p).map Pixel.portData else none

/-- A command code written to `CMD` while `BUSY = 0` (R78, R96, R97): `DETECT` is accepted and run in one step;
`DECODE` and `DECODE_CORE` are accepted and their first phase comes next; the reserved code is ignored. -/
def State.command (s : State) (c : BitVec 2) : Out :=
  if c = 0 then exec .detect s.accept
  else if c = 1 then .next { s.accept with phase := .magic }
  else if c = 2 then .next { s.accept with phase := .resolve }
  else .next s

/-- A write of a register (R33): ignored while `BUSY = 1`, and ignored for a read-only register; upper bits ignored
for a narrow one. -/
def State.hostWriteReg (s : State) (n : BitVec 4) (v : Word) : Out :=
  if s.busy then .next s
  else if n = 0 then .next { s with cfgWidth := v }
  else if n = 1 then .next { s with cfgHeight := v }
  else if n = 2 then .next { s with cfgDepth := v }
  else if n = 3 then .next { s with cfgLength := v }
  else if n = 4 then .next { s with cfgType := RasType.ofCode (v.setWidth 3) }
  else if n = 5 then .next { s with cfgCmapType := CmapType.ofCode (v.setWidth 2) }
  else if n = 6 then .next { s with cfgCmapLength := v }
  else if n = 15 then s.command (v.setWidth 2)
  else .next s

/-- Why a register read answers no value. -/
def State.readRegRefusal (s : State) (n : BitVec 4) : Refusal :=
  if n = 15 then .writeOnlyRegister else if s.phase = .fault then .readAfterFault else .registerUnwritten

/-- One move of the host. Closing the stream ends `IN` at the position reached (R41, R214); attaching one gives the
bytes that come next, `IPOS` goes on counting (R21, R212). -/
def hostMove (m : HostMove) (s : State) : Out :=
  match m with
  | .pass => seqStep s
  | .writeReg n v => s.hostWriteReg n v
  | .readReg n =>
    if (s.hostReadReg n).isSome then .next s
    else .refused (s.readRegRefusal n)
  | .readPal i => if (s.hostReadPal i).isSome then .next s else .refused .palReadRefused
  | .readPix p => if (s.hostReadPix p).isSome then .next s else .refused .pixReadRefused
  | .attach bytes =>
    if s.busy then .refused .attachWhileBusy else .next { s with input := s.input.takeD s.ipos 0 ++ bytes }
  | .close => .next { s with input := s.input.take s.ipos }
  | .reset => .next s.hostReset

/-- One step of the machine: the host's first coming move, or the sequencer's step where none is coming. -/
def machineStep (s : State) : Out :=
  match s.pending with
  | [] => seqStep s
  | m :: rest => hostMove m { s with pending := rest }

end Sys2Proof.Machine
end

