-- ==== Sys2Proof/Machine/Step.lean ====
section
/-! DEFINITION. The step of the machine, and a table row's bytes placed where it fetches. -/

namespace Sys2Proof.Machine

/-- One step (three outcomes: a next state, a model fault, a refused host move). -/
def step (s : State) : Host.Outcome State Fault Refusal := machineStep s

/-- The state whose next step runs the operation that the row of `nbits` bits `w` encodes. -/
def State.withFetchWord (s : State) (nbits w : Nat) : State := s.placeTableWord nbits w

end Sys2Proof.Machine
end

