-- ==== Sys2Proof/Safety.lean ====
section
/-! DEFINITION. What counts as a safe run: the invariant of the machine, in parts that each state one rule of the spec,
and the predicates that claims about faults and frames are written with. -/

namespace Sys2Proof.Machine

/-! ### The invariant -/

/-- The indices of a store are exactly 0 to `n - 1`: each holds a value and no other does. -/
abbrev Memory.dense {α : Type} (m : Memory α) (n : Nat) : Prop := m.map Prod.fst = List.range n

/-- The flags are what the phase says (R25), a fault record stands exactly in phase `FAULT` (R26), the kind is the
cause's (R181), and `DETECT_RESULT` stands only after a `DETECT` (R27). -/
structure FlagsInv (s : State) : Prop where
  busy : s.busy = Phase.isBusy s.phase
  done : s.done = decide (s.phase = .done)
  fault : s.fault = decide (s.phase = .fault)
  pixValid : s.pixValid = true → s.phase = .done
  detectResult : s.detectResult = true → s.phase = .done ∧ s.pixValid = false
  kind : s.faultKind = causeKind s.faultCause
  record : s.phase = .fault ↔ s.faultCause ≠ .none

/-- Every store is in its canonical form. -/
structure StoresInv (s : State) : Prop where
  raw : Memory.wf s.raw = true
  pal : Memory.wf s.pal = true
  pix : Memory.wf s.pix = true

/-- The palette holds exactly the entries below `PAL_COUNT`, at most 256 (R29, R45); it is empty until `CMAP` has run
(R96, R211). After a fault it holds nothing (R191). -/
structure PaletteInv (s : State) : Prop where
  count : s.phase ≠ .fault → s.palCount.toNat ≤ Config.palCapacity
  dense : s.phase ≠ .fault → Memory.dense s.pal s.palCount.toNat
  early : s.phase = .magic ∨ s.phase = .header ∨ s.phase = .resolve ∨ s.phase = .cmap → s.palCount = 0

/-- From `CMAP` to `ASSEMBLE` the format is the one that `CFG` resolves to (R93, R18). -/
abbrev FormatInv (s : State) : Prop :=
  s.phase = .cmap ∨ s.phase = .size ∨ s.phase = .decomp ∨ s.phase = .assemble →
    s.palPresent = decide (0 < s.cfgCmapLength.toNat) ∧
      resolveFormat s.cfgDepth s.cfgType s.palPresent = some s.fmt

/-- In `DECOMP` and `ASSEMBLE` the sizes are those of R95, within the capacities, and the type is a supported one
(R120). -/
abbrev SizesInv (s : State) : Prop :=
  s.phase = .decomp ∨ s.phase = .assemble →
    s.rowBytes = rowBytesOf s.cfgWidth.toNat s.cfgDepth.toNat ∧
      s.rawSize = rawSizeOf s.cfgWidth.toNat s.cfgHeight.toNat s.cfgDepth.toNat ∧
      s.pixCount = s.cfgWidth.toNat * s.cfgHeight.toNat ∧
      s.rawSize ≤ s.params.rawCapacity ∧ s.pixCount ≤ s.params.pixCapacity ∧
      RasType.decompMode s.cfgType ≠ none

/-- In `DECOMP`: `OPOS < RAW_SIZE`, exactly the bytes below `OPOS` are written (R22, R47, R122), a run under way has 1
to 256 bytes left (R122), and raw copy never leaves `R_BYTE`. -/
abbrev DecompInv (s : State) : Prop :=
  s.phase = .decomp →
    s.opos < s.rawSize ∧ Memory.dense s.raw s.opos ∧
      (s.rstate = .rValue ∨ s.rstate = .rRun → 1 ≤ s.rcount.toNat ∧ s.rcount.toNat ≤ 256) ∧
      (RasType.decompMode s.cfgType = some .rawCopy → s.rstate = .rByte)

/-- In `ASSEMBLE`: every byte of `RAW` has been written (R126, R47), and the first pixel comes next (R150). In every
other phase but `DECOMP`, `RAW` holds nothing. -/
structure AssembleInv (s : State) : Prop where
  raw : s.phase = .assemble → s.opos = s.rawSize ∧ Memory.dense s.raw s.rawSize ∧ s.ax = 0 ∧ s.ay = 0
  released : s.phase ≠ .decomp → s.phase ≠ .assemble → s.raw = []

/-- A valid result is complete: every element below `PIX_COUNT` is there, tagged with `FMT`, and the count is the
product of the returned width and height (R25, R31, R46, R158). -/
abbrev ResultInv (s : State) : Prop :=
  s.pixValid = true →
    s.pixCount = s.outWidth.toNat * s.outHeight.toNat ∧
      ∀ p, p < s.pixCount → (Memory.read s.pix p).map Pixel.format = some s.fmt

/-- The invariant of the machine. -/
structure Inv (s : State) : Prop where
  stream : s.ipos ≤ s.input.length
  flags : FlagsInv s
  stores : StoresInv s
  palette : PaletteInv s
  format : FormatInv s
  sizes : SizesInv s
  decomp : DecompInv s
  assemble : AssembleInv s
  result : ResultInv s

/-! ### Faults and frames -/

/-- The seven configuration registers are unchanged (group A). -/
abbrev sameConfig (s t : State) : Prop :=
  t.cfgWidth = s.cfgWidth ∧ t.cfgHeight = s.cfgHeight ∧ t.cfgDepth = s.cfgDepth ∧ t.cfgLength = s.cfgLength ∧
    t.cfgType = s.cfgType ∧ t.cfgCmapType = s.cfgCmapType ∧ t.cfgCmapLength = s.cfgCmapLength

/-- A fault of kind `k` and cause `c` has been taken (R191): the record, the phase and the two flags are written, the
other flags and `OUT_WIDTH`, `OUT_HEIGHT` are not, the stream and the parameters are not, and no store entry can be
read any more. Nothing is said of `IPOS` (U7), nor of the released registers (U8). -/
def takesFault (s t : State) (k : FaultKind) (c : FaultCause) : Prop :=
  t.faultKind = k ∧ t.faultCause = c ∧ t.phase = .fault ∧ t.busy = false ∧ t.fault = true ∧
    t.done = s.done ∧ t.pixValid = s.pixValid ∧ t.detectResult = s.detectResult ∧
    t.outWidth = s.outWidth ∧ t.outHeight = s.outHeight ∧
    t.input = s.input ∧ t.params = s.params ∧ t.pending = s.pending ∧
    (∀ i, Memory.read t.raw i = none) ∧ (∀ i, Memory.read t.pal i = none) ∧ (∀ p, Memory.read t.pix p = none)

/-- The operation answers a next state in which that fault has been taken, the configuration unchanged. -/
def raises (o : Out) (s : State) (k : FaultKind) (c : FaultCause) : Prop :=
  ∃ t, o = .next t ∧ takesFault s t k c ∧ sameConfig s t

/-- The image is ready for assembly: the first pixel comes next (R150), the counts are those of R95, and every byte
of `RAW` holds a value (R126). -/
abbrev readyToAssemble (s : State) : Prop :=
  s.ax = 0 ∧ s.ay = 0 ∧ s.pixCount = s.cfgWidth.toNat * s.cfgHeight.toNat ∧
    ∀ i, i < s.rawSize → (Memory.read s.raw i).isSome = true

/-- The phases that may follow a phase in one step of the sequencer (R20, R96): itself, the next in the list, `FAULT`
from `MAGIC` to `DECOMP`; and `ASSEMBLE` after `SIZE` when there is nothing to decompress (R120: `DECOMP` is entered
and left at once). -/
def phaseFollows (a b : Phase) : Bool :=
  match a, b with
  | .idle, b => b == .idle
  | .magic, b => b == .header || b == .fault
  | .header, b => b == .resolve || b == .fault
  | .resolve, b => b == .cmap || b == .fault
  | .cmap, b => b == .size || b == .fault
  | .size, b => b == .decomp || b == .assemble || b == .fault
  | .decomp, b => b == .decomp || b == .assemble || b == .fault
  | .assemble, b => b == .done
  | .done, b => b == .done
  | .fault, b => b == .fault

end Sys2Proof.Machine
end

