-- ==== Sys2Proof/Certificates/Slice0/Obligations.lean ====
section
/-! DEFINITION. The statements for the provers. Each docstring names the rule of spec/ it formalises. -/

open Sys2Proof Sys2Proof.Machine

/-! ### Reset -/

/-- R34: the state after reset holds every value that R34's table states. (The rows "unspecified" are not stated: what
the model holds there is log entry 4.) -/
def Obligations.ResetHoldsTheStatedValues : Prop :=
  State.reset.phase = .idle ∧
    State.reset.busy = false ∧ State.reset.done = false ∧ State.reset.fault = false ∧
    State.reset.pixValid = false ∧ State.reset.detectResult = false ∧
    FaultKind.code State.reset.faultKind = 0 ∧ FaultCause.code State.reset.faultCause = 0 ∧
    State.reset.palCount = 0 ∧ (∀ i, Memory.read State.reset.pal i = none) ∧
    State.reset.ipos = 0 ∧ State.reset.rstate = .rByte

/-- The machine's invariant holds after reset. -/
def Obligations.InvariantHoldsAtReset : Prop := Inv State.reset

/-- R210: reset may be asserted in any phase. The next state has the values of R34, `DONE`, `FAULT` and the fault record
among them; the stream is not rewound: the bytes that come next are the ones that came next before. -/
def Obligations.ResetIsTakenInAnyPhase : Prop :=
  ∀ (s : State) (rest : List HostMove), s.pending = .reset :: rest →
    ∃ t, step s = .next t ∧
      t.phase = .idle ∧ t.busy = false ∧ t.done = false ∧ t.fault = false ∧ t.pixValid = false ∧
      t.detectResult = false ∧ t.faultKind = .none ∧ t.faultCause = .none ∧
      t.palCount = 0 ∧ t.ipos = 0 ∧ t.rstate = .rByte ∧
      (∀ i, Memory.read t.pal i = none) ∧ (∀ i, Memory.read t.raw i = none) ∧ (∀ p, Memory.read t.pix p = none) ∧
      t.input.drop t.ipos = s.input.drop s.ipos ∧ t.params = s.params ∧ t.pending = rest

/-! ### The invariant, and what it gives -/

/-- Every step, of the sequencer or of the host, keeps the invariant, from every state that meets it. -/
def Obligations.EveryStepKeepsTheInvariant : Prop :=
  ∀ s t : State, Inv s → step s = .next t → Inv t

/-- R159, R47, R150: from a state that meets the invariant no step leaves a store's range, reads a byte that was never
written, or finds no assembly operation; and the only refusals are those of a host move: a read that R33, R45 or R46
does not admit, a read of a register that holds no value (R35: `OUT_FMT` before the current command's `RESOLVE`,
`OUT_WIDTH` and `OUT_HEIGHT` before its result, all of them and `PAL_COUNT` after a fault, R191), or a stream attached
while `BUSY = 1`. (In `IDLE` they hold the reset values that are the model's choice, log entry 4.) -/
def Obligations.InvariantStatesReachNoModelFault : Prop :=
  ∀ s : State, Inv s →
    (∀ f, step s ≠ .fault f) ∧
      ∀ r, step s = .refused r →
        (∃ n rest, s.pending = .readReg n :: rest ∧
            (n = 15 ∨ (9 ≤ n.toNat ∧ n.toNat ≤ 12 ∧ s.phase = .fault) ∨
              (n = 9 ∧
                (s.phase = .magic ∨ s.phase = .header ∨ s.phase = .resolve ∨
                  (s.phase = .done ∧ s.pixValid = false))) ∨
              ((n = 10 ∨ n = 11) ∧ s.phase ≠ .idle ∧ s.pixValid = false))) ∨
        (∃ i rest, s.pending = .readPal i :: rest ∧ (s.pixValid = true → s.palCount.toNat ≤ i)) ∨
        (∃ p rest, s.pending = .readPix p :: rest ∧ (s.pixValid = true → s.pixCount ≤ p)) ∨
        (∃ bytes rest, s.pending = .attach bytes :: rest ∧ s.busy = true)

/-- R96, R215: every command ends. From every busy state that meets the invariant, with no host move coming, the
machine reaches `DONE` or `FAULT` in at most as many steps as stream bytes are left, plus a constant. The bound counts
the MODEL's steps, in which a whole token, a whole `CMAP` and a whole assembly phase are one step each (log entry 2)
and entering a phase costs no step (log entry 24): both are the model's choice. R215's own bound is on pulls, emits and
element writes. -/
def Obligations.EveryCommandReachesDoneOrFault : Prop :=
  ∀ s : State, Inv s → s.pending = [] → Phase.isBusy s.phase = true →
    ∃ n t, n ≤ s.input.length - s.ipos + 264 ∧ Host.Core.run Sys2Proof.core n s = .next t ∧
      (t.phase = .done ∨ t.phase = .fault)

/-- R25: `BUSY`, `DONE` and `FAULT` are 1 exactly in the phases R25 names, and `PIX_VALID` only in `DONE`. Every step
keeps that (with the fault record's part of R26 and R181, and R27), from every state in which it holds. -/
def Obligations.FlagsFollowThePhase : Prop :=
  ∀ s t : State, FlagsInv s → step s = .next t → FlagsInv t

/-- Every step keeps the canonical form of the three stores. -/
def Obligations.StoresStayCanonical : Prop :=
  ∀ s t : State, StoresInv s → step s = .next t → StoresInv t

/-! ### Whole-machine rules -/

/-- R20: without a host move the phase only moves forward, one phase at a time in the order of R20, or to `FAULT` from
`MAGIC` to `DECOMP`; the resting phases are not left. (The model's choice, log entry 24: `DECOMP` is entered and left
in the step that leaves `SIZE` where there is nothing to decompress.) -/
def Obligations.PhaseMovesOnlyForward : Prop :=
  ∀ s t : State, s.pending = [] → step s = .next t → phaseFollows s.phase t.phase = true

/-- R11 to R17: no step of the sequencer outside phase `HEADER` writes a configuration register, and no step at all
writes a parameter (R32: not state). -/
def Obligations.OnlyHeaderWritesConfiguration : Prop :=
  ∀ s t : State, step s = .next t →
    t.params = s.params ∧ (s.pending = [] → s.phase ≠ .header → sameConfig s t)

/-- R55, R41, R21: no step of the sequencer writes the stream, and while no fault is taken `IPOS` never goes back and
never passes the end of the stream. -/
def Obligations.StreamIsReadOnlyAndForward : Prop :=
  ∀ s t : State, s.pending = [] → s.ipos ≤ s.input.length → step s = .next t →
    t.input = s.input ∧ (t.phase ≠ .fault → s.ipos ≤ t.ipos ∧ t.ipos ≤ t.input.length)

/-- R14: `CFG.LENGTH` is never read by any operation. Every operation but `HDR`, which writes it, does the same
whatever `CFG.LENGTH` holds, and leaves it as it was. -/
def Obligations.LengthIsNeverRead : Prop :=
  ∀ (i : Instr) (s : State) (v : Word), (∀ w h d l t c m, i ≠ .hdr w h d l t c m) →
    (∀ t, exec i s = .next t → exec i { s with cfgLength := v } = .next { t with cfgLength := v }) ∧
      (∀ f, exec i s = .fault f → exec i { s with cfgLength := v } = .fault f)

/-- R192: in phase `FAULT` nothing executes, and the fault record stays as written until the host issues a command or
resets the block. -/
def Obligations.FaultRecordIsSticky : Prop :=
  ∀ s t : State, s.phase = .fault → step s = .next t →
    (s.pending = [] → t = s) ∧
      ((∀ v rest, s.pending ≠ .writeReg 15 v :: rest) → (∀ rest, s.pending ≠ .reset :: rest) →
        t.phase = .fault ∧ t.fault = s.fault ∧ t.faultKind = s.faultKind ∧ t.faultCause = s.faultCause)

/-! ### Encoding -/

/-- Every well-formed operation, at every value of its fields, decodes from its own bytes under its own selection,
whatever bytes follow. -/
def Obligations.DecodeOfEncodeIsTheOperation : Prop :=
  ∀ (i : Instr) (rest : List Byte), i.wellFormed = true → decode i.selection (encode i ++ rest) = .ok i

/-- R73, R71, R72: every byte sequence begins with exactly one token, or is an incomplete token (nothing, `80`, or
`80 c` with `c != 0`), which is rejected as a stream end. -/
def Obligations.TokenEncodingIsTotal : Prop :=
  ∀ bytes : List Byte,
    (∃ i rest, i.wellFormed = true ∧ i.selection = .rle ∧ bytes = encode i ++ rest ∧ decode .rle bytes = .ok i) ∨
      ((bytes = [] ∨ bytes = [0x80] ∨ ∃ c, c ≠ 0 ∧ bytes = [0x80, c]) ∧ decode .rle bytes = .error .streamEnd)

/-- R71, R21: how many stream bytes each operation's encoding takes: 4 for `MAGIC`, 28 for `HDR`, 1 for `RAWB` and
`LIT`, 2 for `ESC0`, 3 for `RUN`. -/
def Obligations.EncodedLengths : Prop :=
  (∀ w, (encode (.magic w)).length = 4) ∧
    (∀ w h d l t c m, (encode (.hdr w h d l t c m)).length = 28) ∧
    (∀ b, (encode (.rawb b)).length = 1) ∧ (∀ b, (encode (.lit b)).length = 1) ∧
    (encode .esc0).length = 2 ∧ ∀ c v, (encode (.run c v)).length = 3

/-- A few words written out from the spec's encodings (R60, R61, R70, vectors V-HDR-1 and E1 to E3) decode to what they
stand for. That a word's LENGTH alone chooses among the selections (8 bits a token, so `LIT` and not `RAWB` or `ASM.*`;
32 bits `MAGIC` and not `DETECT`; 224 bits the header) is the rule of `decodeTableWord`, the model's choice, log entry
17: the spec selects by phase and configuration (R75). -/
def Obligations.WordsDecodeAsTheSpecEncodesThem : Prop :=
  decodeTableWord 32 0x59A66A95 = some (.magic 0x59A66A95) ∧
    decodeTableWord 16 0x8000 = some .esc0 ∧
    decodeTableWord 24 0x800241 = some (.run 0x02 0x41) ∧
    decodeTableWord 8 0x41 = some (.lit 0x41) ∧
    decodeTableWord 224 0x00000002000000030000000800000006000000020000000000000000 =
      some (.hdr 2 3 8 6 2 0 0)

/-! ### Fetch -/

/-- In a busy phase, with no host move coming and no token under way, the step is the operation that the selection and
the stream bytes at `IPOS` decode to, followed by the entry to the phase it goes to, where it changes the phase (R24,
R120, R150; that the entry belongs to the same step is the model's choice, log entry 24). -/
def Obligations.StepRunsTheDecodedOperation : Prop :=
  ∀ (s : State) (sel : Sel) (i : Instr), s.pending = [] → s.midToken = false → s.selection = some sel →
    decode sel (s.input.drop s.ipos) = .ok i → step s = enterPhase s.phase (exec i s)

/-- R75: the phase and the configuration select the operation as the table says. -/
def Obligations.PhaseAndConfigurationSelect : Prop :=
  ∀ s : State,
    (s.phase = .magic → s.selection = some .magic) ∧ (s.phase = .header → s.selection = some .header) ∧
    (s.phase = .resolve → s.selection = some .resolve) ∧ (s.phase = .cmap → s.selection = some .cmap) ∧
    (s.phase = .size → s.selection = some .size) ∧
    (s.phase = .decomp → s.cfgType = .old ∨ s.cfgType = .standard ∨ s.cfgType = .rgb →
      s.selection = some .rawCopy) ∧
    (s.phase = .decomp → s.cfgType = .byteEncoded → s.selection = some .rle) ∧
    (s.phase = .assemble → s.selection = some (.asm s.fmt s.cfgDepth)) ∧
    (s.phase = .idle ∨ s.phase = .done ∨ s.phase = .fault → s.selection = none)

/-- R150: the assembly operation of each pair of format and depth, and no other pair has one. -/
def Obligations.AssemblyDispatchIsTheTable : Prop :=
  ∀ (fmt : PixelFormat) (depth : Word) (bytes : List Byte) (i : Instr),
    decode (.asm fmt depth) bytes = .ok i ↔
      (fmt = .grayscale1 ∧ depth = 1 ∧ i = .asmG1) ∨ (fmt = .grayscale8 ∧ depth = 8 ∧ i = .asmG8) ∨
      (fmt = .rgb24 ∧ depth = 24 ∧ i = .asmRgb24) ∨ (fmt = .bgr24 ∧ depth = 24 ∧ i = .asmBgr24) ∨
      (fmt = .indexed8 ∧ depth = 8 ∧ i = .asmIdx8) ∨ (fmt = .indexed8 ∧ depth = 1 ∧ i = .asmIdx1) ∨
      (fmt = .rgba32 ∧ depth = 32 ∧ i = .asmRgba32)

/-- R183, R191: a stream that ends inside the operation's own bytes (fewer than 4 in `MAGIC`, fewer than 28 in
`HEADER`, none in raw copy, an incomplete token in RLE mode) takes `InvalidData(StreamEnd)`; the configuration is as
it was, but nothing is said of it after a stream end inside `HDR` (U7). -/
def Obligations.StreamEndInsideAnOperation : Prop :=
  ∀ s : State, s.pending = [] →
    ((s.phase = .magic ∧ (s.input.drop s.ipos).length < 4) ∨
      (s.phase = .header ∧ (s.input.drop s.ipos).length < 28) ∨
      (s.phase = .decomp ∧ (s.cfgType = .old ∨ s.cfgType = .standard ∨ s.cfgType = .rgb) ∧
        s.input.drop s.ipos = []) ∨
      (s.phase = .decomp ∧ s.cfgType = .byteEncoded ∧ s.rstate = .rByte ∧
        (s.input.drop s.ipos = [] ∨ s.input.drop s.ipos = [0x80] ∨
          ∃ c, c ≠ 0 ∧ s.input.drop s.ipos = [0x80, c])) ∨
      (s.phase = .decomp ∧ s.cfgType = .byteEncoded ∧ (s.rstate = .rCount ∨ s.rstate = .rValue) ∧
        s.input.drop s.ipos = [])) →
    ∃ t, step s = .next t ∧ takesFault s t .invalidData .streamEnd ∧ (s.phase ≠ .header → sameConfig s t)

/-! ### The front end -/

/-- R90: `DETECT` answers whether the next four bytes are the magic, and does nothing else: no byte is consumed, there
is no fault, fewer than four bytes is the answer 0. -/
def Obligations.DetectAnswersAndConsumesNothing : Prop :=
  ∀ s : State, ∃ r : Bool,
    exec .detect s = .next { s with detectResult := r, phase := .done, busy := false, done := true } ∧
      (r = true ↔ ∃ rest, s.input.drop s.ipos = [0x59, 0xA6, 0x6A, 0x95] ++ rest)

/-- R91, as an operation: with four bytes left the magic word leads to `HEADER` and any other word to
`InvalidData(BadMagic)`; with fewer, `InvalidData(StreamEnd)`. -/
def Obligations.MagicChecksFourBytes : Prop :=
  ∀ (w : Word) (s : State),
    (s.ipos + 4 ≤ s.input.length → w = 0x59A66A95 →
      exec (.magic w) s = .next { s with ipos := s.ipos + 4, phase := .header }) ∧
    (s.ipos + 4 ≤ s.input.length → w ≠ 0x59A66A95 → raises (exec (.magic w) s) s .invalidData .badMagic) ∧
    (s.input.length < s.ipos + 4 → raises (exec (.magic w) s) s .invalidData .streamEnd)

/-- R91, as a step on the stream: in phase `MAGIC` the four bytes `59 A6 6A 95` are consumed and lead to `HEADER`; four
other bytes take `BadMagic`; fewer than four take `StreamEnd`. -/
def Obligations.MagicPhaseComparesTheStream : Prop :=
  ∀ s : State, s.phase = .magic → s.pending = [] →
    (∀ rest, s.input.drop s.ipos = [0x59, 0xA6, 0x6A, 0x95] ++ rest →
      step s = .next { s with ipos := s.ipos + 4, phase := .header }) ∧
    (∀ m0 m1 m2 m3 rest, s.input.drop s.ipos = [m0, m1, m2, m3] ++ rest →
      [m0, m1, m2, m3] ≠ [0x59, 0xA6, 0x6A, 0x95] → raises (step s) s .invalidData .badMagic) ∧
    ((s.input.drop s.ipos).length < 4 → raises (step s) s .invalidData .streamEnd)

/-- R92: `HDR` with 28 bytes left and both enumeration values in their code tables writes the seven configuration
registers and goes to `RESOLVE`, and nothing else changes. No field is range-checked. -/
def Obligations.HeaderWritesTheConfiguration : Prop :=
  ∀ (s : State) (width height depth length type cmapType cmapLength : Word) (ty : RasType) (cm : CmapType),
    s.ipos + 28 ≤ s.input.length → codesDistinct s.params = true →
    codeOfType s.params.typeCode ty = some type → codeOfCmapType s.params.cmapCode cm = some cmapType →
    exec (.hdr width height depth length type cmapType cmapLength) s =
      .next
        { s with
          cfgWidth := width
          cfgHeight := height
          cfgDepth := depth
          cfgLength := length
          cfgType := ty
          cfgCmapType := cm
          cfgCmapLength := cmapLength
          ipos := s.ipos + 28
          phase := .resolve }

/-- R184, R92: a `type` or `color_map_type` value outside its code table takes `InvalidData(BadEnumCode)`. The five
plain registers have been written by then (R191 "`CFG` registers keep whatever `HDR` wrote before the fault"; that the
two enumeration registers have not is log entry 12). -/
def Obligations.BadEnumerationCodeFaults : Prop :=
  ∀ (s : State) (width height depth length type cmapType cmapLength : Word),
    s.ipos + 28 ≤ s.input.length →
    ((∀ ty, codeOfType s.params.typeCode ty ≠ some type) ∨
      (∀ cm, codeOfCmapType s.params.cmapCode cm ≠ some cmapType)) →
    ∃ t, exec (.hdr width height depth length type cmapType cmapLength) s = .next t ∧
      takesFault s t .invalidData .badEnumCode ∧
      t.cfgWidth = width ∧ t.cfgHeight = height ∧ t.cfgDepth = depth ∧ t.cfgLength = length ∧
      t.cfgCmapLength = cmapLength

/-- R93: `RESOLVE` writes `PAL_PRESENT` and the format of each legal depth, goes to `CMAP`, and changes nothing else;
every other depth takes `Unsupported(UnsupportedDepth)`, whatever the type. -/
def Obligations.ResolveChoosesTheFormat : Prop :=
  ∀ s : State,
    (∀ f : PixelFormat,
      (s.cfgDepth = 24 ∧ s.cfgType = .rgb ∧ f = .rgb24) ∨ (s.cfgDepth = 24 ∧ s.cfgType ≠ .rgb ∧ f = .bgr24) ∨
      (s.cfgDepth = 32 ∧ f = .rgba32) ∨
      (s.cfgDepth = 8 ∧ s.cfgCmapLength ≠ 0 ∧ f = .indexed8) ∨
      (s.cfgDepth = 8 ∧ s.cfgCmapLength = 0 ∧ f = .grayscale8) ∨
      (s.cfgDepth = 1 ∧ s.cfgCmapLength ≠ 0 ∧ f = .indexed8) ∨
      (s.cfgDepth = 1 ∧ s.cfgCmapLength = 0 ∧ f = .grayscale1) →
      exec .resolve s =
        .next { s with palPresent := decide (s.cfgCmapLength ≠ 0), fmt := f, phase := .cmap }) ∧
    (s.cfgDepth ≠ 1 → s.cfgDepth ≠ 8 → s.cfgDepth ≠ 24 → s.cfgDepth ≠ 32 →
      raises (exec .resolve s) s .unsupported .unsupportedDepth)

/-- R94, the load: a colour map of type `rgb` and `L > 0` bytes with at most 256 entries. Entry `i` takes byte `i` of
each of the three planes of `L / 3` bytes, alpha `0xFF`; all `L` bytes are consumed; the other entries, the other
stores and the other registers (but `CIDX`, private to the phase) are unchanged. -/
def Obligations.ColourMapLoadsThePlanes : Prop :=
  ∀ (s : State) (L n : Nat), L = s.cfgCmapLength.toNat → n = L / 3 →
    s.cfgCmapType = .rgb → 0 < L → n ≤ 256 → s.ipos + L ≤ s.input.length →
    ∃ (m : Memory PalEntry) (count : BitVec 9) (cidx : Nat),
      exec .cmap s =
        .next { s with ipos := s.ipos + L, pal := m, palCount := count, cidx := cidx, phase := .size } ∧
      count.toNat = n ∧
      (∀ i, i < n → ∃ r g b,
        s.input[s.ipos + i]? = some r ∧ s.input[s.ipos + n + i]? = some g ∧
          s.input[s.ipos + 2 * n + i]? = some b ∧
          Memory.read m i = some { r := r, g := g, b := b, a := 0xFF }) ∧
      ∀ i, n ≤ i → Memory.read m i = Memory.read s.pal i

/-- R94, the other cases: no byte is read when the type is `none` (whatever the length) or the length is 0; type `raw`
and register code 3 take `UnsupportedColorMap`; more than 256 entries take `PaletteOverflow`; a short stream takes
`StreamEnd`. -/
def Obligations.ColourMapOtherCases : Prop :=
  ∀ s : State,
    (s.cfgCmapType = .none ∨ (s.cfgCmapType = .rgb ∧ s.cfgCmapLength = 0) →
      exec .cmap s = .next { s with phase := .size }) ∧
    (s.cfgCmapType = .raw ∨ s.cfgCmapType = .code3 →
      raises (exec .cmap s) s .unsupported .unsupportedColorMap) ∧
    (s.cfgCmapType = .rgb → 256 < s.cfgCmapLength.toNat / 3 →
      raises (exec .cmap s) s .invalidData .paletteOverflow) ∧
    (s.cfgCmapType = .rgb → 0 < s.cfgCmapLength.toNat → s.cfgCmapLength.toNat / 3 ≤ 256 →
      s.input.length < s.ipos + s.cfgCmapLength.toNat → raises (exec .cmap s) s .invalidData .streamEnd)

/-- R95: at depth 1 a row is `ceil(width / 8)` bytes rounded up to even; at the other depths `width` times
`max(1, depth / 8)`, no padding. The sizes are exact naturals. Within the capacities `SIZE` goes to `DECOMP` and
changes nothing else; above either it takes `Resource(CapacityExceeded)`. -/
def Obligations.SizeIsExactAndChecked : Prop :=
  ∀ (s : State) (row raw pix bytes : Nat),
    (s.cfgDepth = 1 → bytes = 1 ∧
      (∃ r, 8 * r < s.cfgWidth.toNat + 8 ∧ s.cfgWidth.toNat ≤ 8 * r ∧ row = r + r % 2) ∧
      raw = row * s.cfgHeight.toNat) →
    (s.cfgDepth ≠ 1 → bytes = max 1 (s.cfgDepth.toNat / 8) ∧ row = s.cfgWidth.toNat * bytes ∧
      raw = s.cfgWidth.toNat * s.cfgHeight.toNat * bytes) →
    pix = s.cfgWidth.toNat * s.cfgHeight.toNat →
    (raw ≤ s.params.rawCapacity → pix ≤ s.params.pixCapacity →
      exec .size s =
        .next
          { s with
            bpp := BitVec.ofNat 3 bytes
            rowBytes := row
            rawSize := raw
            pixCount := pix
            phase := .decomp }) ∧
    (s.params.rawCapacity < raw ∨ s.params.pixCapacity < pix →
      raises (exec .size s) s .resource .capacityExceeded)

/-! ### The decompressor -/

/-- R120, R130, R132: the entry to `DECOMP`, in the step that leaves `SIZE` (log entry 24). An unsupported type faults, even for an
empty image; an empty bitmap goes to `ASSEMBLE` at once; else `OPOS` is 0 and `RSTATE` is `R_BYTE`. No stream byte is
consumed. -/
def Obligations.DecompressionEntry : Prop :=
  ∀ s u : State, s.pending = [] → s.phase = .size → exec .size s = .next u → u.phase = .decomp →
    ((s.cfgType = .tiff ∨ s.cfgType = .iff ∨ s.cfgType = .experimental ∨ s.cfgType = .code7) →
      raises (step s) s .unsupported .unsupportedType) ∧
    ((s.cfgType = .old ∨ s.cfgType = .standard ∨ s.cfgType = .rgb ∨ s.cfgType = .byteEncoded) →
      ∃ t, step s = .next t ∧ t.opos = 0 ∧ t.rstate = .rByte ∧ t.ipos = s.ipos ∧ t.rawSize = u.rawSize ∧
        sameConfig s t ∧
        (u.rawSize = 0 → t.phase = .assemble ∧ t.ax = 0 ∧ t.ay = 0) ∧ (u.rawSize ≠ 0 → t.phase = .decomp))

/-- R121: `RAWB` copies one byte, `0x80` included, and leaves `DECOMP` exactly when `RAW` is full; a stream that ends
before the byte takes `InvalidData(StreamEnd)`. -/
def Obligations.RawCopyMovesOneByte : Prop :=
  ∀ (b : Byte) (s : State),
    (s.ipos + 1 ≤ s.input.length → s.opos < s.rawSize →
      ∃ m : List Host.Cell,
        exec (.rawb b) s =
          .next
            { s with
              ipos := s.ipos + 1
              opos := s.opos + 1
              raw := m
              phase := if s.opos + 1 = s.rawSize then .assemble else s.phase } ∧
        Memory.read m s.opos = some b ∧ ∀ i, i ≠ s.opos → Memory.read m i = Memory.read s.raw i) ∧
      (s.input.length < s.ipos + 1 → raises (exec (.rawb b) s) s .invalidData .streamEnd)

/-- R123: a literal token consumes one byte and emits it; a stream that ends before it takes
`InvalidData(StreamEnd)`. -/
def Obligations.LiteralEmitsItsByte : Prop :=
  ∀ (b : Byte) (s : State),
    (s.ipos + 1 ≤ s.input.length → s.opos < s.rawSize → s.rstate = .rByte →
      ∃ m : List Host.Cell,
        exec (.lit b) s =
          .next
            { s with
              ipos := s.ipos + 1
              opos := s.opos + 1
              raw := m
              phase := if s.opos + 1 = s.rawSize then .assemble else s.phase } ∧
        Memory.read m s.opos = some b ∧ ∀ i, i ≠ s.opos → Memory.read m i = Memory.read s.raw i) ∧
      (s.input.length < s.ipos + 1 → raises (exec (.lit b) s) s .invalidData .streamEnd)

/-- R124: the two bytes `80 00` are consumed and emit one `0x80`; a stream that ends at either pull takes
`InvalidData(StreamEnd)`. The equality includes `RSTATE`, which holds `R_BYTE` when the emit fills `RAW`: that value is
the model's choice, log entry 13 (R122 gives none there). -/
def Obligations.EscapeZeroEmitsOneEscapeByte : Prop :=
  ∀ s : State,
    (s.ipos + 2 ≤ s.input.length → s.opos < s.rawSize → s.rstate = .rByte →
      ∃ m : List Host.Cell,
        exec .esc0 s =
          .next
            { s with
              ipos := s.ipos + 2
              opos := s.opos + 1
              raw := m
              phase := if s.opos + 1 = s.rawSize then .assemble else s.phase } ∧
        Memory.read m s.opos = some 0x80 ∧ ∀ i, i ≠ s.opos → Memory.read m i = Memory.read s.raw i) ∧
      (s.input.length < s.ipos + 2 → raises (exec .esc0 s) s .invalidData .streamEnd)

/-- R125: a run consumes its three bytes and emits `min(c + 1, RAW_SIZE - OPOS)` copies of its value; a truncated run is
no fault; a stream that ends at any of the three pulls takes `InvalidData(StreamEnd)`. The equality includes `RSTATE`,
which holds `R_BYTE` when the run fills `RAW`, truncated or not: that value is the model's choice, log entry 13 (R122
gives none there). -/
def Obligations.RunEmitsItsCopies : Prop :=
  ∀ (c v : Byte) (s : State), c ≠ 0 →
    (s.ipos + 3 ≤ s.input.length → s.opos < s.rawSize → s.rstate = .rByte →
      ∃ (m : List Host.Cell) (k : Nat) (left : BitVec 9),
        k = min (c.toNat + 1) (s.rawSize - s.opos) ∧ left.toNat = c.toNat + 1 - k ∧
        exec (.run c v) s =
          .next
            { s with
              ipos := s.ipos + 3
              opos := s.opos + k
              raw := m
              rcount := left
              rvalue := v
              phase := if s.opos + k = s.rawSize then .assemble else s.phase } ∧
        ∀ i, Memory.read m i = if s.opos ≤ i ∧ i < s.opos + k then some v else Memory.read s.raw i) ∧
      (s.input.length < s.ipos + 3 → raises (exec (.run c v) s) s .invalidData .streamEnd)

/-- R127, R122: a token step is the byte-level machine run from `R_BYTE` to the end of the token: the same next state,
register for register; and where the stream ends inside a token the byte-level machine comes to the same fault
state. The equality includes `RSTATE`, which both hold at `R_BYTE` when `DECOMP` is left: that value is the model's
choice, log entry 13 (R122 gives none there, and R127 compares `RAW`, `IPOS` and the fault). -/
def Obligations.TokenStepIsTheByteLevelMachine : Prop :=
  ∀ s : State, s.phase = .decomp → s.rstate = .rByte → s.opos < s.rawSize →
    (∀ i, decode .rle (s.input.drop s.ipos) = .ok i →
      ∃ n, n ≤ 259 ∧ rleTransitions n s = exec i s) ∧
    (decode .rle (s.input.drop s.ipos) = .error .streamEnd →
      ∃ n, n ≤ 3 ∧ rleTransitions n s = .next s.raiseStreamEnd)

/-- R122: the four rows of the table, one transition each: what is pulled, what is emitted, the next `RSTATE`. -/
def Obligations.ByteLevelMachineFollowsItsTable : Prop :=
  ∀ (s : State) (b : Byte), s.opos < s.rawSize →
    (s.rstate = .rByte → s.input[s.ipos]? = some b → b = 0x80 →
      rleTransition s = .next { s with ipos := s.ipos + 1, rstate := .rCount }) ∧
    (s.rstate = .rCount → s.input[s.ipos]? = some b → b ≠ 0 →
      ∃ n : BitVec 9, n.toNat = b.toNat + 1 ∧
        rleTransition s = .next { s with ipos := s.ipos + 1, rcount := n, rstate := .rValue }) ∧
    (s.rstate = .rValue → s.input[s.ipos]? = some b →
      rleTransition s = .next { s with ipos := s.ipos + 1, rvalue := b, rstate := .rRun }) ∧
    ((s.rstate = .rByte ∧ s.input[s.ipos]? = some b ∧ b ≠ 0x80) ∨
        (s.rstate = .rCount ∧ s.input[s.ipos]? = some 0 ∧ b = 0x80) →
      ∃ t, rleTransition s = .next t ∧ t.ipos = s.ipos + 1 ∧ t.opos = s.opos + 1 ∧
        Memory.read t.raw s.opos = some b ∧ (∀ i, i ≠ s.opos → Memory.read t.raw i = Memory.read s.raw i) ∧
        (s.opos + 1 = s.rawSize → t.phase = .assemble) ∧
        (s.opos + 1 ≠ s.rawSize → t.phase = s.phase ∧ t.rstate = .rByte)) ∧
    (s.rstate = .rRun →
      ∃ t, rleTransition s = .next t ∧ t.ipos = s.ipos ∧ t.opos = s.opos + 1 ∧ t.rcount = s.rcount - 1 ∧
        Memory.read t.raw s.opos = some s.rvalue ∧
        (∀ i, i ≠ s.opos → Memory.read t.raw i = Memory.read s.raw i) ∧
        (s.opos + 1 = s.rawSize → t.phase = .assemble) ∧
        (s.opos + 1 ≠ s.rawSize → t.phase = s.phase ∧ t.rstate = if s.rcount = 1 then .rByte else .rRun))

/-! ### The assembler -/

/-- R151: `ASM.G1` on a ready bitmap of padded rows writes, for every row `y` and column `x`, the inverted bit
`7 - (x mod 8)` of row byte `x / 8`, and completes (R158). Whatever `RAW` holds afterwards is not stated (R30); the
other registers and stores are unchanged but `AX` and `AY`, private to the phase. -/
def Obligations.GrayscaleBitsAreUnpackedInverted : Prop :=
  ∀ s : State, readyToAssemble s → s.cfgWidth.toNat ≤ 8 * s.rowBytes →
    s.rawSize = s.rowBytes * s.cfgHeight.toNat →
    ∃ (m : Memory Pixel) (r : List Host.Cell) (ax ay : Nat),
      exec .asmG1 s =
        .next
          { s with
            pix := m, raw := r, ax := ax, ay := ay, outWidth := s.cfgWidth, outHeight := s.cfgHeight
            phase := .done, busy := false, done := true, pixValid := true } ∧
      (∀ y x, y < s.cfgHeight.toNat → x < s.cfgWidth.toNat →
        ∃ byte, Memory.read s.raw (y * s.rowBytes + x / 8) = some byte ∧
          Memory.read m (y * s.cfgWidth.toNat + x) =
            some (.grayscale1 (if byte.getLsbD (7 - x % 8) = false then 1 else 0))) ∧
      ∀ p, s.pixCount ≤ p → Memory.read m p = Memory.read s.pix p

/-- R152: `ASM.G8` copies each byte. -/
def Obligations.GrayscaleBytesAreCopied : Prop :=
  ∀ s : State, readyToAssemble s → s.rawSize = s.pixCount →
    ∃ (m : Memory Pixel) (r : List Host.Cell) (ax ay : Nat),
      exec .asmG8 s =
        .next
          { s with
            pix := m, raw := r, ax := ax, ay := ay, outWidth := s.cfgWidth, outHeight := s.cfgHeight
            phase := .done, busy := false, done := true, pixValid := true } ∧
      (∀ p, p < s.pixCount → ∃ v, Memory.read s.raw p = some v ∧ Memory.read m p = some (.grayscale8 v)) ∧
      ∀ p, s.pixCount ≤ p → Memory.read m p = Memory.read s.pix p

/-- R153: `ASM.RGB24` copies three bytes into `(r, g, b)`. -/
def Obligations.RgbTriplesAreCopied : Prop :=
  ∀ s : State, readyToAssemble s → s.rawSize = 3 * s.pixCount →
    ∃ (m : Memory Pixel) (raw' : List Host.Cell) (ax ay : Nat),
      exec .asmRgb24 s =
        .next
          { s with
            pix := m, raw := raw', ax := ax, ay := ay, outWidth := s.cfgWidth, outHeight := s.cfgHeight
            phase := .done, busy := false, done := true, pixValid := true } ∧
      (∀ p, p < s.pixCount → ∃ r g b,
        Memory.read s.raw (3 * p) = some r ∧ Memory.read s.raw (3 * p + 1) = some g ∧
          Memory.read s.raw (3 * p + 2) = some b ∧ Memory.read m p = some (.rgb24 r g b)) ∧
      ∀ p, s.pixCount ≤ p → Memory.read m p = Memory.read s.pix p

/-- R154: `ASM.BGR24` copies the same three bytes into `(b, g, r)`. -/
def Obligations.BgrTriplesAreCopied : Prop :=
  ∀ s : State, readyToAssemble s → s.rawSize = 3 * s.pixCount →
    ∃ (m : Memory Pixel) (raw' : List Host.Cell) (ax ay : Nat),
      exec .asmBgr24 s =
        .next
          { s with
            pix := m, raw := raw', ax := ax, ay := ay, outWidth := s.cfgWidth, outHeight := s.cfgHeight
            phase := .done, busy := false, done := true, pixValid := true } ∧
      (∀ p, p < s.pixCount → ∃ r g b,
        Memory.read s.raw (3 * p) = some b ∧ Memory.read s.raw (3 * p + 1) = some g ∧
          Memory.read s.raw (3 * p + 2) = some r ∧ Memory.read m p = some (.bgr24 b g r)) ∧
      ∀ p, s.pixCount ≤ p → Memory.read m p = Memory.read s.pix p

/-- R155: `ASM.IDX8` copies each byte as an index, unchecked; the palette is carried unchanged. -/
def Obligations.IndexBytesAreCopied : Prop :=
  ∀ s : State, readyToAssemble s → s.rawSize = s.pixCount →
    ∃ (m : Memory Pixel) (r : List Host.Cell) (ax ay : Nat),
      exec .asmIdx8 s =
        .next
          { s with
            pix := m, raw := r, ax := ax, ay := ay, outWidth := s.cfgWidth, outHeight := s.cfgHeight
            phase := .done, busy := false, done := true, pixValid := true } ∧
      (∀ p, p < s.pixCount → ∃ v, Memory.read s.raw p = some v ∧ Memory.read m p = some (.indexed8 v)) ∧
      ∀ p, s.pixCount ≤ p → Memory.read m p = Memory.read s.pix p

/-- R156: `ASM.IDX1` unpacks bits as `ASM.G1` does and stores the bit as the index, inverted where the parameter
`IDX1_INVERT` is true. -/
def Obligations.IndexBitsAreUnpacked : Prop :=
  ∀ s : State, readyToAssemble s → s.cfgWidth.toNat ≤ 8 * s.rowBytes →
    s.rawSize = s.rowBytes * s.cfgHeight.toNat →
    ∃ (m : Memory Pixel) (r : List Host.Cell) (ax ay : Nat),
      exec .asmIdx1 s =
        .next
          { s with
            pix := m, raw := r, ax := ax, ay := ay, outWidth := s.cfgWidth, outHeight := s.cfgHeight
            phase := .done, busy := false, done := true, pixValid := true } ∧
      (∀ y x, y < s.cfgHeight.toNat → x < s.cfgWidth.toNat →
        ∃ byte bit, Memory.read s.raw (y * s.rowBytes + x / 8) = some byte ∧
          (bit : Nat) = (if byte.getLsbD (7 - x % 8) then 1 else 0) ∧
          Memory.read m (y * s.cfgWidth.toNat + x) =
            some (.indexed8 (BitVec.ofNat 8 (if s.params.idx1Invert then 1 - bit else bit)))) ∧
      ∀ p, s.pixCount ≤ p → Memory.read m p = Memory.read s.pix p

/-- R157: `ASM.RGBA32` drops the pad byte, orders the channels by the type, and makes alpha `0xFF`. -/
def Obligations.RgbaChannelsFollowTheType : Prop :=
  ∀ s : State, readyToAssemble s → s.rawSize = 4 * s.pixCount →
    ∃ (m : Memory Pixel) (raw' : List Host.Cell) (ax ay : Nat),
      exec .asmRgba32 s =
        .next
          { s with
            pix := m, raw := raw', ax := ax, ay := ay, outWidth := s.cfgWidth, outHeight := s.cfgHeight
            phase := .done, busy := false, done := true, pixValid := true } ∧
      (∀ p, p < s.pixCount → ∃ b1 b2 b3,
        Memory.read s.raw (4 * p + 1) = some b1 ∧ Memory.read s.raw (4 * p + 2) = some b2 ∧
          Memory.read s.raw (4 * p + 3) = some b3 ∧
          (s.cfgType = .rgb → Memory.read m p = some (.rgba32 b1 b2 b3 0xFF)) ∧
          (s.cfgType ≠ .rgb → Memory.read m p = some (.rgba32 b3 b2 b1 0xFF))) ∧
      ∀ p, s.pixCount ≤ p → Memory.read m p = Memory.read s.pix p

/-- R44: for the formats that copy bytes straight (`grayscale8`, `indexed8` at depth 8, `rgb24`, `bgr24`) the byte view
of `PIX` is `RAW` byte for byte, `k` bytes to an element. -/
def Obligations.ByteViewEqualsRaw : Prop :=
  ∀ (s t : State) (i : Instr) (k : Nat), readyToAssemble s → s.rawSize = k * s.pixCount →
    ((i = .asmG8 ∧ k = 1) ∨ (i = .asmIdx8 ∧ k = 1) ∨ (i = .asmRgb24 ∧ k = 3) ∨ (i = .asmBgr24 ∧ k = 3)) →
    exec i s = .next t →
    ∀ p j, p < s.pixCount → j < k →
      ∃ e view, Memory.read t.pix p = some e ∧ Pixel.byteView e = some view ∧ view.length = k ∧
        view[j]? = Memory.read s.raw (k * p + j)

/-! ### The host's side -/

/-- R96, R97, R211, R78: a command written to `CMD` while `BUSY = 0` is accepted: the fault record, the flags and the
palette are cleared, `BUSY` is set, and the first phase is `MAGIC` for `DECODE`, `RESOLVE` for `DECODE_CORE`; `CFG`,
`IPOS`, `PIX` and `RAW` are left. `DETECT` is accepted and run in the same step (log entry 30). Bits above 1:0 are
ignored. The equality of whole states also says that the derived and working registers, `OUT_WIDTH` and `OUT_HEIGHT`
keep the last command's content at acceptance, where no read answers it: that is the model's reading, log entry 22 (R35
gives them no value of the new command), not a rule of the spec. -/
def Obligations.CommandsAreAccepted : Prop :=
  ∀ (s : State) (v : Word) (rest : List HostMove), s.pending = .writeReg 15 v :: rest → s.busy = false →
    let accepted : State :=
      { s with
        pending := rest, faultKind := .none, faultCause := .none, done := false, fault := false
        pixValid := false, detectResult := false, palCount := 0, pal := [], busy := true }
    (v.toNat % 4 = 1 → step s = .next { accepted with phase := .magic }) ∧
      (v.toNat % 4 = 2 → step s = .next { accepted with phase := .resolve }) ∧
      (v.toNat % 4 = 0 → step s = exec .detect accepted)

/-- R33: a write while `BUSY = 1`, a write to a read-only register (7 to 14) and the reserved command code are ignored:
no state changes. -/
def Obligations.OtherWritesAreIgnored : Prop :=
  ∀ (s : State) (n : BitVec 4) (v : Word) (rest : List HostMove), s.pending = .writeReg n v :: rest →
    s.busy = true ∨ (7 ≤ n.toNat ∧ n.toNat ≤ 14) ∨ (n = 15 ∧ v.toNat % 4 = 3) →
    step s = .next { s with pending := rest }

/-- R33, R15, R16: while `BUSY = 0` a write to one of the registers 0 to 6 writes that configuration register and
changes nothing else, in any field of the state. `CFG.TYPE` and `CFG.CMAP_TYPE` take the name whose register code (the
lists of R15 and R16; the last of each is the code that only the host can write) stands in the low bits, upper bits
ignored. The register then reads as what was written. -/
def Obligations.ConfigurationWritesReadBack : Prop :=
  ∀ (s : State) (n : BitVec 4) (v : Word) (rest : List HostMove), s.pending = .writeReg n v :: rest →
    s.busy = false →
    (n = 0 → step s = .next { s with pending := rest, cfgWidth := v }) ∧
    (n = 1 → step s = .next { s with pending := rest, cfgHeight := v }) ∧
    (n = 2 → step s = .next { s with pending := rest, cfgDepth := v }) ∧
    (n = 3 → step s = .next { s with pending := rest, cfgLength := v }) ∧
    (n = 4 → ∀ code ty,
      (code, ty) ∈
        [(0, RasType.old), (1, RasType.standard), (2, RasType.byteEncoded), (3, RasType.rgb), (4, RasType.tiff),
          (5, RasType.iff), (6, RasType.experimental), (7, RasType.code7)] →
      v.toNat % 8 = code → step s = .next { s with pending := rest, cfgType := ty }) ∧
    (n = 5 → ∀ code ty,
      (code, ty) ∈ [(0, CmapType.none), (1, CmapType.rgb), (2, CmapType.raw), (3, CmapType.code3)] →
      v.toNat % 4 = code → step s = .next { s with pending := rest, cfgCmapType := ty }) ∧
    (n = 6 → step s = .next { s with pending := rest, cfgCmapLength := v }) ∧
    (n.toNat ≤ 6 → ∃ t, step s = .next t ∧
      t.hostReadReg n =
        some (if n = 4 then BitVec.ofNat 32 (v.toNat % 8) else if n = 5 then BitVec.ofNat 32 (v.toNat % 4) else v))

/-- R33, R20: every bit of `STATUS`, register 7; the phase by its register code in R20's list. -/
def Obligations.StatusWordBits : Prop :=
  ∀ s : State, ∃ w : Word, s.hostReadReg 7 = some w ∧
    w.getLsbD 0 = s.busy ∧ w.getLsbD 1 = s.done ∧ w.getLsbD 2 = s.fault ∧ w.getLsbD 3 = s.pixValid ∧
    w.getLsbD 4 = s.detectResult ∧
    (∀ code phase,
      (code, phase) ∈
        [(0, Phase.idle), (1, Phase.magic), (2, Phase.header), (3, Phase.resolve), (4, Phase.cmap), (5, Phase.size),
          (6, Phase.decomp), (7, Phase.assemble), (8, Phase.done), (9, Phase.fault)] →
      s.phase = phase → w.extractLsb' 8 4 = BitVec.ofNat 4 code) ∧
    w.extractLsb' 5 3 = 0 ∧ w.extractLsb' 12 20 = 0

/-- R33, R26, R181: register 8, `FAULT_INFO`, is `(cause << 4) | kind`, by the code lists of R26 and R181. -/
def Obligations.FaultInfoWordBits : Prop :=
  ∀ (s : State) (kindCode causeCode : Nat) (kind : FaultKind) (cause : FaultCause),
    (kindCode, kind) ∈
      [(0, FaultKind.none), (1, FaultKind.invalidData), (2, FaultKind.unsupported), (3, FaultKind.resource)] →
    (causeCode, cause) ∈
      [(0, FaultCause.none), (1, FaultCause.badMagic), (2, FaultCause.streamEnd), (3, FaultCause.badEnumCode),
        (4, FaultCause.paletteOverflow), (5, FaultCause.unsupportedDepth), (6, FaultCause.unsupportedColorMap),
        (7, FaultCause.unsupportedType), (8, FaultCause.capacityExceeded)] →
    s.faultKind = kind → s.faultCause = cause →
    s.hostReadReg 8 = some (BitVec.ofNat 32 (causeCode * 16 + kindCode))

/-- R45: a palette read is admitted only when `PIX_VALID = 1` and the index is below `PAL_COUNT`; in a state that meets
the invariant an admitted read answers the entry (`r ++ g ++ b ++ a`, decision D2) and changes nothing, any other is refused. -/
def Obligations.PaletteReadsAreAdmittedOnlyWhenValid : Prop :=
  ∀ (s : State) (i : Nat) (rest : List HostMove), Inv s → s.pending = .readPal i :: rest →
    ((s.pixValid = true ∧ i < s.palCount.toNat) →
      step s = .next { s with pending := rest } ∧
        ∃ e, Memory.read s.pal i = some e ∧ s.hostReadPal i = some (e.r ++ e.g ++ e.b ++ e.a)) ∧
    (¬ (s.pixValid = true ∧ i < s.palCount.toNat) →
      s.hostReadPal i = none ∧ step s = .refused .palReadRefused)

/-- R46: a pixel read is admitted only when `PIX_VALID = 1` and the index is below `PIX_COUNT`; in a state that meets the
invariant it answers the element, tagged with `FMT`, and changes nothing: zero-extended, the channels in byte-view order (R44)
from the most significant used byte (decision D2), written out for each of the six formats. Any other read is refused;
after a fault nothing of `PIX` can be read. -/
def Obligations.PixelReadsAreAdmittedOnlyWhenValid : Prop :=
  ∀ (s : State) (p : Nat) (rest : List HostMove), Inv s → s.pending = .readPix p :: rest →
    ((s.pixValid = true ∧ p < s.pixCount) →
      step s = .next { s with pending := rest } ∧
        ∃ e, Memory.read s.pix p = some e ∧ Pixel.format e = s.fmt ∧
          (∀ v, e = .grayscale1 v → s.hostReadPix p = some (BitVec.ofNat 32 v.toNat)) ∧
          (∀ v, e = .grayscale8 v → s.hostReadPix p = some (BitVec.ofNat 32 v.toNat)) ∧
          (∀ v, e = .indexed8 v → s.hostReadPix p = some (BitVec.ofNat 32 v.toNat)) ∧
          (∀ r g b, e = .rgb24 r g b → s.hostReadPix p = some ((0 : Byte) ++ r ++ g ++ b)) ∧
          (∀ b g r, e = .bgr24 b g r → s.hostReadPix p = some ((0 : Byte) ++ b ++ g ++ r)) ∧
          (∀ r g b a, e = .rgba32 r g b a → s.hostReadPix p = some (r ++ g ++ b ++ a))) ∧
    (¬ (s.pixValid = true ∧ p < s.pixCount) →
      s.hostReadPix p = none ∧ step s = .refused .pixReadRefused) ∧
    (s.phase = .fault → step s = .refused .pixReadRefused)

/-- R214, R41, R183: the host may close the stream at any time, in every phase, and nothing changes but that `IN` ends
at the position reached. In every phase that pulls (`MAGIC`; `HEADER`; `CMAP` with a colour map to load; `DECOMP` in raw
copy and at `R_BYTE`, `R_COUNT` and `R_VALUE`) the next step then takes `InvalidData(StreamEnd)`; the configuration is
as it was, but nothing is said of it where the pull was `HDR`'s (U7). -/
def Obligations.ClosedStreamSurfacesAsStreamEnd : Prop :=
  ∀ (s : State) (rest : List HostMove), s.pending = .close :: rest →
    let closed : State := { s with pending := rest, input := s.input.take s.ipos }
    step s = .next closed ∧
      (rest = [] →
        (s.phase = .magic ∨ s.phase = .header ∨
          (s.phase = .cmap ∧ s.cfgCmapType = .rgb ∧ 0 < s.cfgCmapLength.toNat ∧ s.cfgCmapLength.toNat / 3 ≤ 256) ∨
          (s.phase = .decomp ∧ (s.cfgType = .old ∨ s.cfgType = .standard ∨ s.cfgType = .rgb)) ∨
          (s.phase = .decomp ∧ s.cfgType = .byteEncoded ∧
            (s.rstate = .rByte ∨ s.rstate = .rCount ∨ s.rstate = .rValue))) →
        ∃ t, step closed = .next t ∧ takesFault closed t .invalidData .streamEnd ∧
          (s.phase ≠ .header → sameConfig s t))

/-- R212, R41: while the block rests the host attaches a stream, whose bytes are the ones that come next; nothing
changes but `IN`, and `IPOS` goes on counting (the model's choice, log entry 20). While `BUSY = 1` the move is refused
(R214 puts that host outside the spec; the refusal is log entry 20's). -/
def Obligations.AttachedStreamComesNext : Prop :=
  ∀ (s : State) (bytes : List Byte) (rest : List HostMove), s.pending = .attach bytes :: rest →
    (s.busy = false →
      ∃ content, step s = .next { s with pending := rest, input := content } ∧ content.drop s.ipos = bytes) ∧
    (s.busy = true → step s = .refused .attachWhileBusy)

/-- R33: what each register but `STATUS` and `FAULT_INFO` reads as, zero-extended: the plain configuration registers,
`CFG.TYPE`, `CFG.CMAP_TYPE` and `OUT_FMT` by their register codes (the lists of R15, R16 and R18), `PAL_COUNT`, the two
halves of `IPOS`. A register that the current command has not written holds no value and cannot be read (R35, D20):
`OUT_FMT` before its `RESOLVE` has run, `OUT_WIDTH` and `OUT_HEIGHT` before its result is valid, and none of them after a
`DETECT`; after a fault none of them can be read, nor `PAL_COUNT` (R191, U8). That they answer in `IDLE`, before any
command, is the model's choice, log entry 4; that `OUT_FMT` answers between `RESOLVE` and `DONE` is its reading, log
entry 32. `CMD` cannot be read (R33 has it write only; log entry 23). -/
def Obligations.RegisterReadsAnswerTheMap : Prop :=
  ∀ s : State,
    s.hostReadReg 0 = some s.cfgWidth ∧ s.hostReadReg 1 = some s.cfgHeight ∧ s.hostReadReg 2 = some s.cfgDepth ∧
    s.hostReadReg 3 = some s.cfgLength ∧
    (∀ code ty,
      (code, ty) ∈
        [(0, RasType.old), (1, RasType.standard), (2, RasType.byteEncoded), (3, RasType.rgb), (4, RasType.tiff),
          (5, RasType.iff), (6, RasType.experimental), (7, RasType.code7)] →
      s.cfgType = ty → s.hostReadReg 4 = some (BitVec.ofNat 32 code)) ∧
    (∀ code ty,
      (code, ty) ∈ [(0, CmapType.none), (1, CmapType.rgb), (2, CmapType.raw), (3, CmapType.code3)] →
      s.cfgCmapType = ty → s.hostReadReg 5 = some (BitVec.ofNat 32 code)) ∧
    s.hostReadReg 6 = some s.cfgCmapLength ∧
    (s.phase = .idle ∨ s.phase = .cmap ∨ s.phase = .size ∨ s.phase = .decomp ∨ s.phase = .assemble ∨
        (s.phase = .done ∧ s.pixValid = true) →
      ∀ code fmt,
        (code, fmt) ∈
          [(0, PixelFormat.grayscale1), (1, PixelFormat.grayscale8), (2, PixelFormat.indexed8),
            (3, PixelFormat.rgb24), (4, PixelFormat.bgr24), (5, PixelFormat.rgba32)] →
        s.fmt = fmt → s.hostReadReg 9 = some (BitVec.ofNat 32 code)) ∧
    (s.phase = .magic ∨ s.phase = .header ∨ s.phase = .resolve ∨ (s.phase = .done ∧ s.pixValid = false) ∨
        s.phase = .fault →
      s.hostReadReg 9 = none) ∧
    (s.phase = .idle ∨ (s.phase = .done ∧ s.pixValid = true) →
      s.hostReadReg 10 = some s.outWidth ∧ s.hostReadReg 11 = some s.outHeight) ∧
    (s.phase ≠ .idle → ¬(s.phase = .done ∧ s.pixValid = true) →
      s.hostReadReg 10 = none ∧ s.hostReadReg 11 = none) ∧
    (s.phase ≠ .fault → s.hostReadReg 12 = some (BitVec.ofNat 32 s.palCount.toNat)) ∧
    (s.phase = .fault → s.hostReadReg 12 = none) ∧
    s.hostReadReg 13 = some (BitVec.ofNat 32 (s.ipos % 2 ^ 32)) ∧
    s.hostReadReg 14 = some (BitVec.ofNat 32 (s.ipos / 2 ^ 32 % 2 ^ 32)) ∧
    s.hostReadReg 15 = none

/-- R33 "A read has no side effect": a step at a register read that answers a value leaves the whole state as it was,
but that the move has been made. The reads that answer none are those of the statement above, and the step refuses each by
name: `CMD` (log entry 23); after a fault `OUT_FMT`, `OUT_WIDTH`, `OUT_HEIGHT`, `PAL_COUNT` (R191, R35); the first three
where the current command has not written them (R35, R213; that the stop is a refusal of the host's move is log entry
32). -/
def Obligations.RegisterReadsChangeNothing : Prop :=
  ∀ (s : State) (n : BitVec 4) (rest : List HostMove), s.pending = .readReg n :: rest →
    ((n.toNat ≤ 8 ∨ n = 13 ∨ n = 14 ∨ (n = 12 ∧ s.phase ≠ .fault) ∨
        (n = 9 ∧
          (s.phase = .idle ∨ s.phase = .cmap ∨ s.phase = .size ∨ s.phase = .decomp ∨ s.phase = .assemble ∨
            (s.phase = .done ∧ s.pixValid = true))) ∨
        ((n = 10 ∨ n = 11) ∧ (s.phase = .idle ∨ (s.phase = .done ∧ s.pixValid = true)))) →
      (∃ w, s.hostReadReg n = some w) ∧ step s = .next { s with pending := rest }) ∧
    (n = 15 → step s = .refused .writeOnlyRegister) ∧
    (s.phase = .fault → 9 ≤ n.toNat → n.toNat ≤ 12 → step s = .refused .readAfterFault) ∧
    ((n = 9 ∧
          (s.phase = .magic ∨ s.phase = .header ∨ s.phase = .resolve ∨ (s.phase = .done ∧ s.pixValid = false))) ∨
        ((n = 10 ∨ n = 11) ∧ s.phase ≠ .idle ∧ s.phase ≠ .fault ∧ ¬(s.phase = .done ∧ s.pixValid = true)) →
      step s = .refused .registerUnwritten)
end

