-- ==== Sys2Proof/Laws/Encoding.lean ====
section
/-! SUPPORT. Big-endian words, and the decoder on streams that are too short. -/

namespace Sys2Proof

theorem u32be_byte0 (b0 b1 b2 b3 : Byte) : (u32be b0 b1 b2 b3).extractLsb' 24 8 = b0 := by
  unfold u32be
  apply BitVec.eq_of_getLsbD_eq
  intro i hi
  simp only [BitVec.getLsbD_append, BitVec.getLsbD_extractLsb']
  interval_cases i <;> simp

theorem u32be_byte1 (b0 b1 b2 b3 : Byte) : (u32be b0 b1 b2 b3).extractLsb' 16 8 = b1 := by
  unfold u32be
  apply BitVec.eq_of_getLsbD_eq
  intro i hi
  simp only [BitVec.getLsbD_append, BitVec.getLsbD_extractLsb']
  interval_cases i <;> simp

theorem u32be_byte2 (b0 b1 b2 b3 : Byte) : (u32be b0 b1 b2 b3).extractLsb' 8 8 = b2 := by
  unfold u32be
  apply BitVec.eq_of_getLsbD_eq
  intro i hi
  simp only [BitVec.getLsbD_append, BitVec.getLsbD_extractLsb']
  interval_cases i <;> simp

theorem u32be_byte3 (b0 b1 b2 b3 : Byte) : (u32be b0 b1 b2 b3).extractLsb' 0 8 = b3 := by
  unfold u32be
  apply BitVec.eq_of_getLsbD_eq
  intro i hi
  simp only [BitVec.getLsbD_append, BitVec.getLsbD_extractLsb']
  interval_cases i <;> simp

/-- The bytes of an assembled word are the bytes it was assembled from. -/
theorem wordBytes_u32be (b0 b1 b2 b3 : Byte) : wordBytes (u32be b0 b1 b2 b3) = [b0, b1, b2, b3] := by
  simp only [wordBytes, u32be_byte0, u32be_byte1, u32be_byte2, u32be_byte3]

/-- A word is assembled back from its bytes. -/
theorem u32be_wordBytes (w : Word) :
    u32be (w.extractLsb' 24 8) (w.extractLsb' 16 8) (w.extractLsb' 8 8) (w.extractLsb' 0 8) = w := by
  unfold u32be
  apply BitVec.eq_of_getLsbD_eq
  intro i hi
  simp only [BitVec.getLsbD_append, BitVec.getLsbD_extractLsb']
  interval_cases i <;> simp

theorem takeWord_wordBytes (w : Word) (rest : List Byte) : takeWord (wordBytes w ++ rest) = some (w, rest) := by
  simp [wordBytes, takeWord, u32be_wordBytes]

theorem takeWord_of_short {bytes : List Byte} (h : bytes.length < 4) : takeWord bytes = none := by
  rcases bytes with _ | ⟨a, _ | ⟨b, _ | ⟨c, _ | ⟨d, r⟩⟩⟩⟩ <;> simp_all [takeWord]
  omega

theorem takeWord_of_long {bytes : List Byte} (h : 4 ≤ bytes.length) :
    ∃ w, takeWord bytes = some (w, bytes.drop 4) := by
  rcases bytes with _ | ⟨a, _ | ⟨b, _ | ⟨c, _ | ⟨d, r⟩⟩⟩⟩ <;> simp_all [takeWord]

theorem wordBytes_length (w : Word) : (wordBytes w).length = 4 := rfl

end Sys2Proof
end

