-- ==== Sys2Proof/Laws/Exec.lean ====
section
/-! SUPPORT. The meaning that `exec` runs for each operation, one equation a constructor. -/

namespace Sys2Proof.Machine

theorem exec_detect (s : State) : exec .detect s = execDetect s := rfl
theorem exec_magic (w : Word) (s : State) : exec (.magic w) s = execMagic w s := rfl
theorem exec_hdr (w h d l t c m : Word) (s : State) : exec (.hdr w h d l t c m) s = execHdr w h d l t c m s := rfl
theorem exec_resolve (s : State) : exec .resolve s = execResolve s := rfl
theorem exec_cmap (s : State) : exec .cmap s = execCmap s := rfl
theorem exec_size (s : State) : exec .size s = execSize s := rfl
theorem exec_rawb (b : Byte) (s : State) : exec (.rawb b) s = execRawb b s := rfl
theorem exec_esc0 (s : State) : exec .esc0 s = execEsc0 s := rfl
theorem exec_run (c v : Byte) (s : State) : exec (.run c v) s = execRun c v s := rfl
theorem exec_lit (b : Byte) (s : State) : exec (.lit b) s = execLit b s := rfl
theorem exec_asmG1 (s : State) : exec .asmG1 s = s.assemble elementG1 := rfl
theorem exec_asmG8 (s : State) : exec .asmG8 s = s.assemble elementG8 := rfl
theorem exec_asmRgb24 (s : State) : exec .asmRgb24 s = s.assemble elementRgb24 := rfl
theorem exec_asmBgr24 (s : State) : exec .asmBgr24 s = s.assemble elementBgr24 := rfl
theorem exec_asmIdx8 (s : State) : exec .asmIdx8 s = s.assemble elementIdx8 := rfl
theorem exec_asmIdx1 (s : State) : exec .asmIdx1 s = s.assemble elementIdx1 := rfl
theorem exec_asmRgba32 (s : State) : exec .asmRgba32 s = s.assemble elementRgba32 := rfl

end Sys2Proof.Machine
end

