-- ==== Sys2Proof/Laws/Memory.lean ====
section
/-! SUPPORT. The laws of the stores: read after write, the canonical form, dense stores. -/

namespace Sys2Proof.Machine

variable {α : Type}

@[simp] theorem Memory.read_nil (k : Nat) : Memory.read ([] : Memory α) k = none := rfl

theorem Memory.read_write_same (m : Memory α) (k : Nat) (v : α) : Memory.read (Memory.write m k v) k = some v := by
  induction m with
  | nil => simp [Memory.write, Memory.read]
  | cons c m ih =>
    obtain ⟨a, x⟩ := c
    unfold Memory.write
    split
    · simp [Memory.read]
    · split
      · simp [Memory.read]
      · rename_i h1 h2
        simp [Memory.read, h2, ih]

theorem Memory.read_write_other (m : Memory α) {k j : Nat} (v : α) (h : j ≠ k) :
    Memory.read (Memory.write m k v) j = Memory.read m j := by
  induction m with
  | nil => simp [Memory.write, Memory.read, h]
  | cons c m ih =>
    obtain ⟨a, x⟩ := c
    unfold Memory.write
    split
    · simp [Memory.read, h]
    · split
      · rename_i h1 h2
        subst h2
        simp [Memory.read, h]
      · simp [Memory.read, ih]

theorem Memory.read_write (m : Memory α) (k j : Nat) (v : α) :
    Memory.read (Memory.write m k v) j = if j = k then some v else Memory.read m j := by
  split
  · rename_i h
    subst h
    exact Memory.read_write_same m j v
  · rename_i h
    exact Memory.read_write_other m v h

theorem Memory.wfFrom_mono {m : Memory α} {lo lo' : Nat} (h : lo' ≤ lo) (hm : Memory.wfFrom lo m = true) :
    Memory.wfFrom lo' m = true := by
  cases m with
  | nil => rfl
  | cons c m =>
    obtain ⟨a, x⟩ := c
    simp [Memory.wfFrom] at hm ⊢
    exact ⟨le_trans h hm.1, hm.2⟩

theorem Memory.wfFrom_write (m : Memory α) (k lo : Nat) (v : α) (hk : lo ≤ k) (hm : Memory.wfFrom lo m = true) :
    Memory.wfFrom lo (Memory.write m k v) = true := by
  induction m generalizing lo with
  | nil => simp [Memory.write, Memory.wfFrom, hk]
  | cons c m ih =>
    obtain ⟨a, x⟩ := c
    simp [Memory.wfFrom] at hm
    unfold Memory.write
    split
    · rename_i h
      simp only [Memory.wfFrom, Bool.and_eq_true, decide_eq_true_eq]
      exact ⟨hk, h, hm.2⟩
    · split
      · rename_i h1 h2
        subst h2
        simp [Memory.wfFrom, hm.2, hk]
      · rename_i h1 h2
        have := ih (a + 1) (by omega) hm.2
        simp [Memory.wfFrom, hm.1, this]

/-- A write keeps the canonical form. -/
theorem Memory.wf_write {m : Memory α} (k : Nat) (v : α) (hm : Memory.wf m = true) :
    Memory.wf (Memory.write m k v) = true :=
  Memory.wfFrom_write m k 0 v (Nat.zero_le k) hm

@[simp] theorem Memory.wf_nil : Memory.wf ([] : Memory α) = true := rfl

/-- Consecutive writes keep the canonical form. -/
theorem Memory.wf_writeAll (xs : List α) {m : Memory α} (k : Nat) (hm : Memory.wf m = true) :
    Memory.wf (Memory.writeAll m k xs) = true := by
  induction xs generalizing m k with
  | nil => exact hm
  | cons x xs ih => exact ih (k + 1) (Memory.wf_write k x hm)

/-- What consecutive writes leave at each index. -/
theorem Memory.read_writeAll (xs : List α) (m : Memory α) (k i : Nat) :
    Memory.read (Memory.writeAll m k xs) i =
      if k ≤ i ∧ i < k + xs.length then xs[i - k]? else Memory.read m i := by
  induction xs generalizing m k with
  | nil => simp [Memory.writeAll]
  | cons x xs ih =>
    simp only [Memory.writeAll, ih, Memory.read_write, List.length_cons]
    by_cases h : i = k
    · subst h
      simp
    · by_cases h' : k + 1 ≤ i ∧ i < k + 1 + xs.length
      · have : k ≤ i ∧ i < k + (xs.length + 1) := by omega
        rw [if_pos h', if_pos this]
        obtain ⟨j, rfl⟩ : ∃ j, i = k + 1 + j := ⟨i - (k + 1), by omega⟩
        rw [show k + 1 + j - k = j + 1 by omega, show k + 1 + j - (k + 1) = j by omega]
        simp
      · have : ¬ (k ≤ i ∧ i < k + (xs.length + 1)) := by omega
        rw [if_neg h', if_neg this, if_neg h]

theorem Memory.read_isSome_iff (m : Memory α) (i : Nat) :
    (Memory.read m i).isSome = true ↔ i ∈ m.map Prod.fst := by
  induction m with
  | nil => simp
  | cons c m ih =>
    obtain ⟨a, x⟩ := c
    by_cases h : i = a
    · simp [Memory.read, h]
    · simp only [Memory.read, if_neg h, ih, List.map_cons, List.mem_cons]
      simp [h]

/-- In a dense store exactly the indices below `n` hold a value. -/
theorem Memory.dense_read {m : Memory α} {n : Nat} (h : Memory.dense m n) (i : Nat) :
    (Memory.read m i).isSome = true ↔ i < n := by
  rw [Memory.read_isSome_iff, h, List.mem_range]

theorem Memory.dense_nil : Memory.dense ([] : Memory α) 0 := rfl

theorem Memory.write_above (m : Memory α) (k : Nat) (v : α) (h : ∀ a ∈ m.map Prod.fst, a < k) :
    Memory.write m k v = m ++ [(k, v)] := by
  induction m with
  | nil => rfl
  | cons c m ih =>
    obtain ⟨a, x⟩ := c
    have ha : a < k := h a (by simp)
    unfold Memory.write
    rw [if_neg (by omega), if_neg (by omega), ih (fun b hb => h b (by simp at hb ⊢; exact Or.inr hb))]
    rfl

/-- Writing the first free index of a dense store keeps it dense. -/
theorem Memory.dense_write {m : Memory α} {n : Nat} (h : Memory.dense m n) (v : α) :
    Memory.dense (Memory.write m n v) (n + 1) := by
  have : ∀ a ∈ m.map Prod.fst, a < n := by
    intro a ha
    rw [h] at ha
    exact List.mem_range.mp ha
  rw [Memory.write_above m n v this]
  show (m ++ [(n, v)]).map Prod.fst = List.range (n + 1)
  rw [List.map_append, h, List.range_succ]
  rfl

theorem Memory.dense_writeAll (xs : List α) {m : Memory α} {n : Nat} (h : Memory.dense m n) :
    Memory.dense (Memory.writeAll m n xs) (n + xs.length) := by
  induction xs generalizing m n with
  | nil => exact h
  | cons x xs ih =>
    have := ih (Memory.dense_write h x)
    rw [List.length_cons, show n + (xs.length + 1) = n + 1 + xs.length by omega]
    exact this

/-- The state after reset has its stores in canonical form. -/
theorem reset_stores_wf :
    Memory.wf State.reset.raw = true ∧ Memory.wf State.reset.pal = true ∧ Memory.wf State.reset.pix = true :=
  ⟨rfl, rfl, rfl⟩

end Sys2Proof.Machine
end

