-- ==== Sys2Proof/Laws/State.lean ====
section
/-! SUPPORT. What each named update of the state leaves in each field, one lemma a field, so that no later proof
unfolds an update. The registers a fault releases have no lemma but that they are the free values. -/

namespace Sys2Proof.Machine

/-! ### accept -/

@[simp] theorem State.accept_cfgWidth (s : State) : s.accept.cfgWidth = s.cfgWidth := rfl
@[simp] theorem State.accept_cfgHeight (s : State) : s.accept.cfgHeight = s.cfgHeight := rfl
@[simp] theorem State.accept_cfgDepth (s : State) : s.accept.cfgDepth = s.cfgDepth := rfl
@[simp] theorem State.accept_cfgLength (s : State) : s.accept.cfgLength = s.cfgLength := rfl
@[simp] theorem State.accept_cfgType (s : State) : s.accept.cfgType = s.cfgType := rfl
@[simp] theorem State.accept_cfgCmapType (s : State) : s.accept.cfgCmapType = s.cfgCmapType := rfl
@[simp] theorem State.accept_cfgCmapLength (s : State) : s.accept.cfgCmapLength = s.cfgCmapLength := rfl
@[simp] theorem State.accept_palPresent (s : State) : s.accept.palPresent = s.palPresent := rfl
@[simp] theorem State.accept_fmt (s : State) : s.accept.fmt = s.fmt := rfl
@[simp] theorem State.accept_bpp (s : State) : s.accept.bpp = s.bpp := rfl
@[simp] theorem State.accept_rowBytes (s : State) : s.accept.rowBytes = s.rowBytes := rfl
@[simp] theorem State.accept_rawSize (s : State) : s.accept.rawSize = s.rawSize := rfl
@[simp] theorem State.accept_pixCount (s : State) : s.accept.pixCount = s.pixCount := rfl
@[simp] theorem State.accept_phase (s : State) : s.accept.phase = s.phase := rfl
@[simp] theorem State.accept_ipos (s : State) : s.accept.ipos = s.ipos := rfl
@[simp] theorem State.accept_rstate (s : State) : s.accept.rstate = s.rstate := rfl
@[simp] theorem State.accept_rcount (s : State) : s.accept.rcount = s.rcount := rfl
@[simp] theorem State.accept_rvalue (s : State) : s.accept.rvalue = s.rvalue := rfl
@[simp] theorem State.accept_opos (s : State) : s.accept.opos = s.opos := rfl
@[simp] theorem State.accept_ax (s : State) : s.accept.ax = s.ax := rfl
@[simp] theorem State.accept_ay (s : State) : s.accept.ay = s.ay := rfl
@[simp] theorem State.accept_cidx (s : State) : s.accept.cidx = s.cidx := rfl
@[simp] theorem State.accept_busy (s : State) : s.accept.busy = true := rfl
@[simp] theorem State.accept_done (s : State) : s.accept.done = false := rfl
@[simp] theorem State.accept_fault (s : State) : s.accept.fault = false := rfl
@[simp] theorem State.accept_pixValid (s : State) : s.accept.pixValid = false := rfl
@[simp] theorem State.accept_faultKind (s : State) : s.accept.faultKind = .none := rfl
@[simp] theorem State.accept_faultCause (s : State) : s.accept.faultCause = .none := rfl
@[simp] theorem State.accept_detectResult (s : State) : s.accept.detectResult = false := rfl
@[simp] theorem State.accept_outWidth (s : State) : s.accept.outWidth = s.outWidth := rfl
@[simp] theorem State.accept_outHeight (s : State) : s.accept.outHeight = s.outHeight := rfl
@[simp] theorem State.accept_pal (s : State) : s.accept.pal = [] := rfl
@[simp] theorem State.accept_palCount (s : State) : s.accept.palCount = 0 := rfl
@[simp] theorem State.accept_raw (s : State) : s.accept.raw = s.raw := rfl
@[simp] theorem State.accept_pix (s : State) : s.accept.pix = s.pix := rfl
@[simp] theorem State.accept_input (s : State) : s.accept.input = s.input := rfl
@[simp] theorem State.accept_params (s : State) : s.accept.params = s.params := rfl
@[simp] theorem State.accept_pending (s : State) : s.accept.pending = s.pending := rfl
@[simp] theorem State.accept_freeCount (s : State) : s.accept.freeCount = s.freeCount := rfl

/-! ### enterAssemble -/

@[simp] theorem State.enterAssemble_cfgWidth (s : State) : s.enterAssemble.cfgWidth = s.cfgWidth := rfl
@[simp] theorem State.enterAssemble_cfgHeight (s : State) : s.enterAssemble.cfgHeight = s.cfgHeight := rfl
@[simp] theorem State.enterAssemble_cfgDepth (s : State) : s.enterAssemble.cfgDepth = s.cfgDepth := rfl
@[simp] theorem State.enterAssemble_cfgLength (s : State) : s.enterAssemble.cfgLength = s.cfgLength := rfl
@[simp] theorem State.enterAssemble_cfgType (s : State) : s.enterAssemble.cfgType = s.cfgType := rfl
@[simp] theorem State.enterAssemble_cfgCmapType (s : State) : s.enterAssemble.cfgCmapType = s.cfgCmapType := rfl
@[simp] theorem State.enterAssemble_cfgCmapLength (s : State) : s.enterAssemble.cfgCmapLength = s.cfgCmapLength := rfl
@[simp] theorem State.enterAssemble_palPresent (s : State) : s.enterAssemble.palPresent = s.palPresent := rfl
@[simp] theorem State.enterAssemble_fmt (s : State) : s.enterAssemble.fmt = s.fmt := rfl
@[simp] theorem State.enterAssemble_bpp (s : State) : s.enterAssemble.bpp = s.bpp := rfl
@[simp] theorem State.enterAssemble_rowBytes (s : State) : s.enterAssemble.rowBytes = s.rowBytes := rfl
@[simp] theorem State.enterAssemble_rawSize (s : State) : s.enterAssemble.rawSize = s.rawSize := rfl
@[simp] theorem State.enterAssemble_pixCount (s : State) : s.enterAssemble.pixCount = s.pixCount := rfl
@[simp] theorem State.enterAssemble_phase (s : State) : s.enterAssemble.phase = .assemble := rfl
@[simp] theorem State.enterAssemble_ipos (s : State) : s.enterAssemble.ipos = s.ipos := rfl
@[simp] theorem State.enterAssemble_rstate (s : State) : s.enterAssemble.rstate = s.rstate := rfl
@[simp] theorem State.enterAssemble_rcount (s : State) : s.enterAssemble.rcount = s.rcount := rfl
@[simp] theorem State.enterAssemble_rvalue (s : State) : s.enterAssemble.rvalue = s.rvalue := rfl
@[simp] theorem State.enterAssemble_opos (s : State) : s.enterAssemble.opos = s.opos := rfl
@[simp] theorem State.enterAssemble_ax (s : State) : s.enterAssemble.ax = 0 := rfl
@[simp] theorem State.enterAssemble_ay (s : State) : s.enterAssemble.ay = 0 := rfl
@[simp] theorem State.enterAssemble_cidx (s : State) : s.enterAssemble.cidx = s.cidx := rfl
@[simp] theorem State.enterAssemble_busy (s : State) : s.enterAssemble.busy = s.busy := rfl
@[simp] theorem State.enterAssemble_done (s : State) : s.enterAssemble.done = s.done := rfl
@[simp] theorem State.enterAssemble_fault (s : State) : s.enterAssemble.fault = s.fault := rfl
@[simp] theorem State.enterAssemble_pixValid (s : State) : s.enterAssemble.pixValid = s.pixValid := rfl
@[simp] theorem State.enterAssemble_faultKind (s : State) : s.enterAssemble.faultKind = s.faultKind := rfl
@[simp] theorem State.enterAssemble_faultCause (s : State) : s.enterAssemble.faultCause = s.faultCause := rfl
@[simp] theorem State.enterAssemble_detectResult (s : State) : s.enterAssemble.detectResult = s.detectResult := rfl
@[simp] theorem State.enterAssemble_outWidth (s : State) : s.enterAssemble.outWidth = s.outWidth := rfl
@[simp] theorem State.enterAssemble_outHeight (s : State) : s.enterAssemble.outHeight = s.outHeight := rfl
@[simp] theorem State.enterAssemble_pal (s : State) : s.enterAssemble.pal = s.pal := rfl
@[simp] theorem State.enterAssemble_palCount (s : State) : s.enterAssemble.palCount = s.palCount := rfl
@[simp] theorem State.enterAssemble_raw (s : State) : s.enterAssemble.raw = s.raw := rfl
@[simp] theorem State.enterAssemble_pix (s : State) : s.enterAssemble.pix = s.pix := rfl
@[simp] theorem State.enterAssemble_input (s : State) : s.enterAssemble.input = s.input := rfl
@[simp] theorem State.enterAssemble_params (s : State) : s.enterAssemble.params = s.params := rfl
@[simp] theorem State.enterAssemble_pending (s : State) : s.enterAssemble.pending = s.pending := rfl
@[simp] theorem State.enterAssemble_freeCount (s : State) : s.enterAssemble.freeCount = s.freeCount := rfl

/-! ### complete -/

@[simp] theorem State.complete_cfgWidth (s : State) : s.complete.cfgWidth = s.cfgWidth := rfl
@[simp] theorem State.complete_cfgHeight (s : State) : s.complete.cfgHeight = s.cfgHeight := rfl
@[simp] theorem State.complete_cfgDepth (s : State) : s.complete.cfgDepth = s.cfgDepth := rfl
@[simp] theorem State.complete_cfgLength (s : State) : s.complete.cfgLength = s.cfgLength := rfl
@[simp] theorem State.complete_cfgType (s : State) : s.complete.cfgType = s.cfgType := rfl
@[simp] theorem State.complete_cfgCmapType (s : State) : s.complete.cfgCmapType = s.cfgCmapType := rfl
@[simp] theorem State.complete_cfgCmapLength (s : State) : s.complete.cfgCmapLength = s.cfgCmapLength := rfl
@[simp] theorem State.complete_palPresent (s : State) : s.complete.palPresent = s.palPresent := rfl
@[simp] theorem State.complete_fmt (s : State) : s.complete.fmt = s.fmt := rfl
@[simp] theorem State.complete_bpp (s : State) : s.complete.bpp = s.bpp := rfl
@[simp] theorem State.complete_rowBytes (s : State) : s.complete.rowBytes = s.rowBytes := rfl
@[simp] theorem State.complete_rawSize (s : State) : s.complete.rawSize = s.rawSize := rfl
@[simp] theorem State.complete_pixCount (s : State) : s.complete.pixCount = s.pixCount := rfl
@[simp] theorem State.complete_phase (s : State) : s.complete.phase = .done := rfl
@[simp] theorem State.complete_ipos (s : State) : s.complete.ipos = s.ipos := rfl
@[simp] theorem State.complete_rstate (s : State) : s.complete.rstate = s.rstate := rfl
@[simp] theorem State.complete_rcount (s : State) : s.complete.rcount = s.rcount := rfl
@[simp] theorem State.complete_rvalue (s : State) : s.complete.rvalue = s.rvalue := rfl
@[simp] theorem State.complete_opos (s : State) : s.complete.opos = s.opos := rfl
@[simp] theorem State.complete_ax (s : State) : s.complete.ax = s.ax := rfl
@[simp] theorem State.complete_ay (s : State) : s.complete.ay = s.ay := rfl
@[simp] theorem State.complete_cidx (s : State) : s.complete.cidx = s.cidx := rfl
@[simp] theorem State.complete_busy (s : State) : s.complete.busy = false := rfl
@[simp] theorem State.complete_done (s : State) : s.complete.done = true := rfl
@[simp] theorem State.complete_fault (s : State) : s.complete.fault = s.fault := rfl
@[simp] theorem State.complete_pixValid (s : State) : s.complete.pixValid = true := rfl
@[simp] theorem State.complete_faultKind (s : State) : s.complete.faultKind = s.faultKind := rfl
@[simp] theorem State.complete_faultCause (s : State) : s.complete.faultCause = s.faultCause := rfl
@[simp] theorem State.complete_detectResult (s : State) : s.complete.detectResult = s.detectResult := rfl
@[simp] theorem State.complete_outWidth (s : State) : s.complete.outWidth = s.cfgWidth := rfl
@[simp] theorem State.complete_outHeight (s : State) : s.complete.outHeight = s.cfgHeight := rfl
@[simp] theorem State.complete_pal (s : State) : s.complete.pal = s.pal := rfl
@[simp] theorem State.complete_palCount (s : State) : s.complete.palCount = s.palCount := rfl
@[simp] theorem State.complete_raw (s : State) : s.complete.raw = [] := rfl
@[simp] theorem State.complete_pix (s : State) : s.complete.pix = s.pix := rfl
@[simp] theorem State.complete_input (s : State) : s.complete.input = s.input := rfl
@[simp] theorem State.complete_params (s : State) : s.complete.params = s.params := rfl
@[simp] theorem State.complete_pending (s : State) : s.complete.pending = s.pending := rfl
@[simp] theorem State.complete_freeCount (s : State) : s.complete.freeCount = s.freeCount := rfl

/-! ### raise -/

@[simp] theorem State.raise_cfgWidth (s : State) (c : FaultCause) : (s.raise c).cfgWidth = s.cfgWidth := rfl
@[simp] theorem State.raise_cfgHeight (s : State) (c : FaultCause) : (s.raise c).cfgHeight = s.cfgHeight := rfl
@[simp] theorem State.raise_cfgDepth (s : State) (c : FaultCause) : (s.raise c).cfgDepth = s.cfgDepth := rfl
@[simp] theorem State.raise_cfgLength (s : State) (c : FaultCause) : (s.raise c).cfgLength = s.cfgLength := rfl
@[simp] theorem State.raise_cfgType (s : State) (c : FaultCause) : (s.raise c).cfgType = s.cfgType := rfl
@[simp] theorem State.raise_cfgCmapType (s : State) (c : FaultCause) : (s.raise c).cfgCmapType = s.cfgCmapType := rfl
@[simp] theorem State.raise_cfgCmapLength (s : State) (c : FaultCause) : (s.raise c).cfgCmapLength = s.cfgCmapLength := rfl
@[simp] theorem State.raise_phase (s : State) (c : FaultCause) : (s.raise c).phase = .fault := rfl
@[simp] theorem State.raise_ipos (s : State) (c : FaultCause) : (s.raise c).ipos = s.ipos := rfl
@[simp] theorem State.raise_busy (s : State) (c : FaultCause) : (s.raise c).busy = false := rfl
@[simp] theorem State.raise_done (s : State) (c : FaultCause) : (s.raise c).done = s.done := rfl
@[simp] theorem State.raise_fault (s : State) (c : FaultCause) : (s.raise c).fault = true := rfl
@[simp] theorem State.raise_pixValid (s : State) (c : FaultCause) : (s.raise c).pixValid = s.pixValid := rfl
@[simp] theorem State.raise_faultKind (s : State) (c : FaultCause) : (s.raise c).faultKind = causeKind c := rfl
@[simp] theorem State.raise_faultCause (s : State) (c : FaultCause) : (s.raise c).faultCause = c := rfl
@[simp] theorem State.raise_detectResult (s : State) (c : FaultCause) : (s.raise c).detectResult = s.detectResult := rfl
@[simp] theorem State.raise_outWidth (s : State) (c : FaultCause) : (s.raise c).outWidth = s.outWidth := rfl
@[simp] theorem State.raise_outHeight (s : State) (c : FaultCause) : (s.raise c).outHeight = s.outHeight := rfl
@[simp] theorem State.raise_pal (s : State) (c : FaultCause) : (s.raise c).pal = [] := rfl
@[simp] theorem State.raise_raw (s : State) (c : FaultCause) : (s.raise c).raw = [] := rfl
@[simp] theorem State.raise_pix (s : State) (c : FaultCause) : (s.raise c).pix = [] := rfl
@[simp] theorem State.raise_input (s : State) (c : FaultCause) : (s.raise c).input = s.input := rfl
@[simp] theorem State.raise_params (s : State) (c : FaultCause) : (s.raise c).params = s.params := rfl
@[simp] theorem State.raise_pending (s : State) (c : FaultCause) : (s.raise c).pending = s.pending := rfl
@[simp] theorem State.raise_freeCount (s : State) (c : FaultCause) : (s.raise c).freeCount = s.freeCount + 1 := rfl

/-! ### hostReset -/

@[simp] theorem State.hostReset_cfgWidth (s : State) : s.hostReset.cfgWidth = State.reset.cfgWidth := rfl
@[simp] theorem State.hostReset_cfgHeight (s : State) : s.hostReset.cfgHeight = State.reset.cfgHeight := rfl
@[simp] theorem State.hostReset_cfgDepth (s : State) : s.hostReset.cfgDepth = State.reset.cfgDepth := rfl
@[simp] theorem State.hostReset_cfgLength (s : State) : s.hostReset.cfgLength = State.reset.cfgLength := rfl
@[simp] theorem State.hostReset_cfgType (s : State) : s.hostReset.cfgType = State.reset.cfgType := rfl
@[simp] theorem State.hostReset_cfgCmapType (s : State) : s.hostReset.cfgCmapType = State.reset.cfgCmapType := rfl
@[simp] theorem State.hostReset_cfgCmapLength (s : State) : s.hostReset.cfgCmapLength = State.reset.cfgCmapLength := rfl
@[simp] theorem State.hostReset_palPresent (s : State) : s.hostReset.palPresent = State.reset.palPresent := rfl
@[simp] theorem State.hostReset_fmt (s : State) : s.hostReset.fmt = State.reset.fmt := rfl
@[simp] theorem State.hostReset_bpp (s : State) : s.hostReset.bpp = State.reset.bpp := rfl
@[simp] theorem State.hostReset_rowBytes (s : State) : s.hostReset.rowBytes = State.reset.rowBytes := rfl
@[simp] theorem State.hostReset_rawSize (s : State) : s.hostReset.rawSize = State.reset.rawSize := rfl
@[simp] theorem State.hostReset_pixCount (s : State) : s.hostReset.pixCount = State.reset.pixCount := rfl
@[simp] theorem State.hostReset_phase (s : State) : s.hostReset.phase = State.reset.phase := rfl
@[simp] theorem State.hostReset_ipos (s : State) : s.hostReset.ipos = State.reset.ipos := rfl
@[simp] theorem State.hostReset_rstate (s : State) : s.hostReset.rstate = State.reset.rstate := rfl
@[simp] theorem State.hostReset_rcount (s : State) : s.hostReset.rcount = State.reset.rcount := rfl
@[simp] theorem State.hostReset_rvalue (s : State) : s.hostReset.rvalue = State.reset.rvalue := rfl
@[simp] theorem State.hostReset_opos (s : State) : s.hostReset.opos = State.reset.opos := rfl
@[simp] theorem State.hostReset_ax (s : State) : s.hostReset.ax = State.reset.ax := rfl
@[simp] theorem State.hostReset_ay (s : State) : s.hostReset.ay = State.reset.ay := rfl
@[simp] theorem State.hostReset_cidx (s : State) : s.hostReset.cidx = State.reset.cidx := rfl
@[simp] theorem State.hostReset_busy (s : State) : s.hostReset.busy = State.reset.busy := rfl
@[simp] theorem State.hostReset_done (s : State) : s.hostReset.done = State.reset.done := rfl
@[simp] theorem State.hostReset_fault (s : State) : s.hostReset.fault = State.reset.fault := rfl
@[simp] theorem State.hostReset_pixValid (s : State) : s.hostReset.pixValid = State.reset.pixValid := rfl
@[simp] theorem State.hostReset_faultKind (s : State) : s.hostReset.faultKind = State.reset.faultKind := rfl
@[simp] theorem State.hostReset_faultCause (s : State) : s.hostReset.faultCause = State.reset.faultCause := rfl
@[simp] theorem State.hostReset_detectResult (s : State) : s.hostReset.detectResult = State.reset.detectResult := rfl
@[simp] theorem State.hostReset_outWidth (s : State) : s.hostReset.outWidth = State.reset.outWidth := rfl
@[simp] theorem State.hostReset_outHeight (s : State) : s.hostReset.outHeight = State.reset.outHeight := rfl
@[simp] theorem State.hostReset_pal (s : State) : s.hostReset.pal = State.reset.pal := rfl
@[simp] theorem State.hostReset_palCount (s : State) : s.hostReset.palCount = State.reset.palCount := rfl
@[simp] theorem State.hostReset_raw (s : State) : s.hostReset.raw = State.reset.raw := rfl
@[simp] theorem State.hostReset_pix (s : State) : s.hostReset.pix = State.reset.pix := rfl
@[simp] theorem State.hostReset_input (s : State) : s.hostReset.input = s.remaining := rfl
@[simp] theorem State.hostReset_params (s : State) : s.hostReset.params = s.params := rfl
@[simp] theorem State.hostReset_pending (s : State) : s.hostReset.pending = s.pending := rfl
@[simp] theorem State.hostReset_freeCount (s : State) : s.hostReset.freeCount = s.freeCount := rfl

/-! ### afterToken, nextPixel -/

@[simp] theorem State.afterToken_cfgWidth (s : State) : s.afterToken.cfgWidth = s.cfgWidth := by
  unfold State.afterToken; split <;> rfl
@[simp] theorem State.afterToken_cfgHeight (s : State) : s.afterToken.cfgHeight = s.cfgHeight := by
  unfold State.afterToken; split <;> rfl
@[simp] theorem State.afterToken_cfgDepth (s : State) : s.afterToken.cfgDepth = s.cfgDepth := by
  unfold State.afterToken; split <;> rfl
@[simp] theorem State.afterToken_cfgLength (s : State) : s.afterToken.cfgLength = s.cfgLength := by
  unfold State.afterToken; split <;> rfl
@[simp] theorem State.afterToken_cfgType (s : State) : s.afterToken.cfgType = s.cfgType := by
  unfold State.afterToken; split <;> rfl
@[simp] theorem State.afterToken_cfgCmapType (s : State) : s.afterToken.cfgCmapType = s.cfgCmapType := by
  unfold State.afterToken; split <;> rfl
@[simp] theorem State.afterToken_cfgCmapLength (s : State) : s.afterToken.cfgCmapLength = s.cfgCmapLength := by
  unfold State.afterToken; split <;> rfl
@[simp] theorem State.afterToken_palPresent (s : State) : s.afterToken.palPresent = s.palPresent := by
  unfold State.afterToken; split <;> rfl
@[simp] theorem State.afterToken_fmt (s : State) : s.afterToken.fmt = s.fmt := by
  unfold State.afterToken; split <;> rfl
@[simp] theorem State.afterToken_bpp (s : State) : s.afterToken.bpp = s.bpp := by
  unfold State.afterToken; split <;> rfl
@[simp] theorem State.afterToken_rowBytes (s : State) : s.afterToken.rowBytes = s.rowBytes := by
  unfold State.afterToken; split <;> rfl
@[simp] theorem State.afterToken_rawSize (s : State) : s.afterToken.rawSize = s.rawSize := by
  unfold State.afterToken; split <;> rfl
@[simp] theorem State.afterToken_pixCount (s : State) : s.afterToken.pixCount = s.pixCount := by
  unfold State.afterToken; split <;> rfl
theorem State.afterToken_phase (s : State) :
    s.afterToken.phase = if s.opos = s.rawSize then .assemble else s.phase := by
  unfold State.afterToken; split <;> rfl
@[simp] theorem State.afterToken_ipos (s : State) : s.afterToken.ipos = s.ipos := by
  unfold State.afterToken; split <;> rfl
@[simp] theorem State.afterToken_rstate (s : State) : s.afterToken.rstate = .rByte := by
  unfold State.afterToken; split <;> rfl
@[simp] theorem State.afterToken_rcount (s : State) : s.afterToken.rcount = s.rcount := by
  unfold State.afterToken; split <;> rfl
@[simp] theorem State.afterToken_rvalue (s : State) : s.afterToken.rvalue = s.rvalue := by
  unfold State.afterToken; split <;> rfl
@[simp] theorem State.afterToken_opos (s : State) : s.afterToken.opos = s.opos := by
  unfold State.afterToken; split <;> rfl
@[simp] theorem State.afterToken_ax (s : State) : s.afterToken.ax = s.ax := by
  unfold State.afterToken; split <;> rfl
@[simp] theorem State.afterToken_ay (s : State) : s.afterToken.ay = s.ay := by
  unfold State.afterToken; split <;> rfl
@[simp] theorem State.afterToken_cidx (s : State) : s.afterToken.cidx = s.cidx := by
  unfold State.afterToken; split <;> rfl
@[simp] theorem State.afterToken_busy (s : State) : s.afterToken.busy = s.busy := by
  unfold State.afterToken; split <;> rfl
@[simp] theorem State.afterToken_done (s : State) : s.afterToken.done = s.done := by
  unfold State.afterToken; split <;> rfl
@[simp] theorem State.afterToken_fault (s : State) : s.afterToken.fault = s.fault := by
  unfold State.afterToken; split <;> rfl
@[simp] theorem State.afterToken_pixValid (s : State) : s.afterToken.pixValid = s.pixValid := by
  unfold State.afterToken; split <;> rfl
@[simp] theorem State.afterToken_faultKind (s : State) : s.afterToken.faultKind = s.faultKind := by
  unfold State.afterToken; split <;> rfl
@[simp] theorem State.afterToken_faultCause (s : State) : s.afterToken.faultCause = s.faultCause := by
  unfold State.afterToken; split <;> rfl
@[simp] theorem State.afterToken_detectResult (s : State) : s.afterToken.detectResult = s.detectResult := by
  unfold State.afterToken; split <;> rfl
@[simp] theorem State.afterToken_outWidth (s : State) : s.afterToken.outWidth = s.outWidth := by
  unfold State.afterToken; split <;> rfl
@[simp] theorem State.afterToken_outHeight (s : State) : s.afterToken.outHeight = s.outHeight := by
  unfold State.afterToken; split <;> rfl
@[simp] theorem State.afterToken_pal (s : State) : s.afterToken.pal = s.pal := by
  unfold State.afterToken; split <;> rfl
@[simp] theorem State.afterToken_palCount (s : State) : s.afterToken.palCount = s.palCount := by
  unfold State.afterToken; split <;> rfl
@[simp] theorem State.afterToken_raw (s : State) : s.afterToken.raw = s.raw := by
  unfold State.afterToken; split <;> rfl
@[simp] theorem State.afterToken_pix (s : State) : s.afterToken.pix = s.pix := by
  unfold State.afterToken; split <;> rfl
@[simp] theorem State.afterToken_input (s : State) : s.afterToken.input = s.input := by
  unfold State.afterToken; split <;> rfl
@[simp] theorem State.afterToken_params (s : State) : s.afterToken.params = s.params := by
  unfold State.afterToken; split <;> rfl
@[simp] theorem State.afterToken_pending (s : State) : s.afterToken.pending = s.pending := by
  unfold State.afterToken; split <;> rfl
@[simp] theorem State.afterToken_freeCount (s : State) : s.afterToken.freeCount = s.freeCount := by
  unfold State.afterToken; split <;> rfl

@[simp] theorem State.nextPixel_cfgWidth (s : State) : s.nextPixel.cfgWidth = s.cfgWidth := by
  unfold State.nextPixel; split <;> rfl
@[simp] theorem State.nextPixel_cfgHeight (s : State) : s.nextPixel.cfgHeight = s.cfgHeight := by
  unfold State.nextPixel; split <;> rfl
@[simp] theorem State.nextPixel_cfgDepth (s : State) : s.nextPixel.cfgDepth = s.cfgDepth := by
  unfold State.nextPixel; split <;> rfl
@[simp] theorem State.nextPixel_cfgLength (s : State) : s.nextPixel.cfgLength = s.cfgLength := by
  unfold State.nextPixel; split <;> rfl
@[simp] theorem State.nextPixel_cfgType (s : State) : s.nextPixel.cfgType = s.cfgType := by
  unfold State.nextPixel; split <;> rfl
@[simp] theorem State.nextPixel_cfgCmapType (s : State) : s.nextPixel.cfgCmapType = s.cfgCmapType := by
  unfold State.nextPixel; split <;> rfl
@[simp] theorem State.nextPixel_cfgCmapLength (s : State) : s.nextPixel.cfgCmapLength = s.cfgCmapLength := by
  unfold State.nextPixel; split <;> rfl
@[simp] theorem State.nextPixel_palPresent (s : State) : s.nextPixel.palPresent = s.palPresent := by
  unfold State.nextPixel; split <;> rfl
@[simp] theorem State.nextPixel_fmt (s : State) : s.nextPixel.fmt = s.fmt := by
  unfold State.nextPixel; split <;> rfl
@[simp] theorem State.nextPixel_bpp (s : State) : s.nextPixel.bpp = s.bpp := by
  unfold State.nextPixel; split <;> rfl
@[simp] theorem State.nextPixel_rowBytes (s : State) : s.nextPixel.rowBytes = s.rowBytes := by
  unfold State.nextPixel; split <;> rfl
@[simp] theorem State.nextPixel_rawSize (s : State) : s.nextPixel.rawSize = s.rawSize := by
  unfold State.nextPixel; split <;> rfl
@[simp] theorem State.nextPixel_pixCount (s : State) : s.nextPixel.pixCount = s.pixCount := by
  unfold State.nextPixel; split <;> rfl
@[simp] theorem State.nextPixel_phase (s : State) : s.nextPixel.phase = s.phase := by
  unfold State.nextPixel; split <;> rfl
@[simp] theorem State.nextPixel_ipos (s : State) : s.nextPixel.ipos = s.ipos := by
  unfold State.nextPixel; split <;> rfl
@[simp] theorem State.nextPixel_rstate (s : State) : s.nextPixel.rstate = s.rstate := by
  unfold State.nextPixel; split <;> rfl
@[simp] theorem State.nextPixel_rcount (s : State) : s.nextPixel.rcount = s.rcount := by
  unfold State.nextPixel; split <;> rfl
@[simp] theorem State.nextPixel_rvalue (s : State) : s.nextPixel.rvalue = s.rvalue := by
  unfold State.nextPixel; split <;> rfl
@[simp] theorem State.nextPixel_opos (s : State) : s.nextPixel.opos = s.opos := by
  unfold State.nextPixel; split <;> rfl
@[simp] theorem State.nextPixel_cidx (s : State) : s.nextPixel.cidx = s.cidx := by
  unfold State.nextPixel; split <;> rfl
@[simp] theorem State.nextPixel_busy (s : State) : s.nextPixel.busy = s.busy := by
  unfold State.nextPixel; split <;> rfl
@[simp] theorem State.nextPixel_done (s : State) : s.nextPixel.done = s.done := by
  unfold State.nextPixel; split <;> rfl
@[simp] theorem State.nextPixel_fault (s : State) : s.nextPixel.fault = s.fault := by
  unfold State.nextPixel; split <;> rfl
@[simp] theorem State.nextPixel_pixValid (s : State) : s.nextPixel.pixValid = s.pixValid := by
  unfold State.nextPixel; split <;> rfl
@[simp] theorem State.nextPixel_faultKind (s : State) : s.nextPixel.faultKind = s.faultKind := by
  unfold State.nextPixel; split <;> rfl
@[simp] theorem State.nextPixel_faultCause (s : State) : s.nextPixel.faultCause = s.faultCause := by
  unfold State.nextPixel; split <;> rfl
@[simp] theorem State.nextPixel_detectResult (s : State) : s.nextPixel.detectResult = s.detectResult := by
  unfold State.nextPixel; split <;> rfl
@[simp] theorem State.nextPixel_outWidth (s : State) : s.nextPixel.outWidth = s.outWidth := by
  unfold State.nextPixel; split <;> rfl
@[simp] theorem State.nextPixel_outHeight (s : State) : s.nextPixel.outHeight = s.outHeight := by
  unfold State.nextPixel; split <;> rfl
@[simp] theorem State.nextPixel_pal (s : State) : s.nextPixel.pal = s.pal := by
  unfold State.nextPixel; split <;> rfl
@[simp] theorem State.nextPixel_palCount (s : State) : s.nextPixel.palCount = s.palCount := by
  unfold State.nextPixel; split <;> rfl
@[simp] theorem State.nextPixel_raw (s : State) : s.nextPixel.raw = s.raw := by
  unfold State.nextPixel; split <;> rfl
@[simp] theorem State.nextPixel_pix (s : State) : s.nextPixel.pix = s.pix := by
  unfold State.nextPixel; split <;> rfl
@[simp] theorem State.nextPixel_input (s : State) : s.nextPixel.input = s.input := by
  unfold State.nextPixel; split <;> rfl
@[simp] theorem State.nextPixel_params (s : State) : s.nextPixel.params = s.params := by
  unfold State.nextPixel; split <;> rfl
@[simp] theorem State.nextPixel_pending (s : State) : s.nextPixel.pending = s.pending := by
  unfold State.nextPixel; split <;> rfl
@[simp] theorem State.nextPixel_freeCount (s : State) : s.nextPixel.freeCount = s.freeCount := by
  unfold State.nextPixel; split <;> rfl

end Sys2Proof.Machine
end

