-- ==== Sys2Proof/Laws/Ops.lean ====
section
/-! SUPPORT. What each shared operation can do, said once: consuming, pulling, emitting, taking a fault, emitting a run,
assembling an image, entering a phase. -/

namespace Sys2Proof.Machine

/-! ### Stream -/

theorem consume_of_le {s : State} {n : Nat} (k : State → Out) (h : s.ipos + n ≤ s.input.length) :
    s.consume n k = k { s with ipos := s.ipos + n } := if_pos h

theorem consume_of_lt {s : State} {n : Nat} (k : State → Out) (h : s.input.length < s.ipos + n) :
    s.consume n k = .next s.raiseStreamEnd := if_neg (Nat.not_le.mpr h)

theorem pull_some {s : State} {b : Byte} (k : Byte → State → Out) (h : s.input[s.ipos]? = some b) :
    s.pull k = k b { s with ipos := s.ipos + 1 } := by
  unfold State.pull
  rw [h]

theorem pull_none {s : State} (k : Byte → State → Out) (h : s.input.length ≤ s.ipos) :
    s.pull k = .next s.raiseStreamEnd := by
  unfold State.pull
  rw [List.getElem?_eq_none h]

/-- Consuming either finds the end of the stream or goes on past the bytes. -/
theorem consume_next {s t : State} {n : Nat} {k : State → Out} (h : s.consume n k = .next t) :
    (s.input.length < s.ipos + n ∧ t = s.raiseStreamEnd) ∨
      (s.ipos + n ≤ s.input.length ∧ k { s with ipos := s.ipos + n } = .next t) := by
  by_cases hl : s.ipos + n ≤ s.input.length
  · rw [consume_of_le k hl] at h
    exact .inr ⟨hl, h⟩
  · rw [consume_of_lt k (by omega)] at h
    cases h
    exact .inl ⟨by omega, rfl⟩

/-- Pulling either finds the end of the stream or takes the next byte. -/
theorem pull_next {s t : State} {k : Byte → State → Out} (h : s.pull k = .next t) :
    (s.input.length ≤ s.ipos ∧ t = s.raiseStreamEnd) ∨
      ∃ b, s.input[s.ipos]? = some b ∧ k b { s with ipos := s.ipos + 1 } = .next t := by
  rcases hb : s.input[s.ipos]? with _ | b
  · have hl : s.input.length ≤ s.ipos := by simpa using hb
    rw [pull_none k hl] at h
    cases h
    exact .inl ⟨hl, rfl⟩
  · rw [pull_some k hb] at h
    exact .inr ⟨b, rfl, h⟩

/-! ### RAW and PIX -/

theorem emit_of_lt {s : State} (v : Byte) (k : State → Out) (h : s.opos < s.rawSize) :
    s.emit v k = k { s with raw := Memory.write s.raw s.opos v, opos := s.opos + 1 } := if_pos h

theorem emit_of_ge {s : State} (v : Byte) (k : State → Out) (h : s.rawSize ≤ s.opos) :
    s.emit v k = .fault .rawOutOfRange := if_neg (Nat.not_lt.mpr h)

theorem writePix_of_lt {s : State} {p : Nat} (e : Pixel) (k : State → Out) (h : p < s.pixCount) :
    s.writePix p e k = k { s with pix := Memory.write s.pix p e } := if_pos h

/-- Emitting goes on only with room in `RAW`. -/
theorem emit_next {s t : State} {v : Byte} {k : State → Out} (h : s.emit v k = .next t) :
    s.opos < s.rawSize ∧ k { s with raw := Memory.write s.raw s.opos v, opos := s.opos + 1 } = .next t := by
  by_cases hl : s.opos < s.rawSize
  · rw [emit_of_lt v k hl] at h
    exact ⟨hl, h⟩
  · rw [emit_of_ge v k (by omega)] at h
    cases h

theorem readRaw_of_some {s : State} {i : Nat} {b : Byte} (hi : i < s.rawSize) (h : Memory.read s.raw i = some b) :
    s.readRaw i = .ok b := by
  unfold State.readRaw
  rw [if_pos hi, h]

/-- What `afterToken` does, as one record. -/
theorem afterToken_eq (s : State) :
    s.afterToken =
      { s with phase := if s.opos = s.rawSize then .assemble else s.phase, rstate := .rByte } := by
  unfold State.afterToken
  split <;> rfl

/-- Every byte of a ready image reads as some byte. -/
theorem readRaw_of_ready {s : State} (hr : readyToAssemble s) {i : Nat} (hi : i < s.rawSize) :
    ∃ b, Memory.read s.raw i = some b ∧ s.readRaw i = .ok b := by
  obtain ⟨b, hb⟩ := Option.isSome_iff_exists.mp (hr.2.2.2 i hi)
  exact ⟨b, hb, readRaw_of_some hi hb⟩

/-- An index inside the image is below `PIX_COUNT`. -/
theorem pixIndex_lt {s : State} (hc : s.pixCount = s.cfgWidth.toNat * s.cfgHeight.toNat) {y x : Nat}
    (hy : y < s.cfgHeight.toNat) (hx : x < s.cfgWidth.toNat) : s.pixIndex y x < s.pixCount := by
  unfold State.pixIndex
  rw [hc]
  have h : (y + 1) * s.cfgWidth.toNat ≤ s.cfgHeight.toNat * s.cfgWidth.toNat := Nat.mul_le_mul_right _ hy
  rw [Nat.add_mul] at h
  rw [Nat.mul_comm s.cfgWidth.toNat]
  omega

/-- A bit inside the image lies in a byte below `RAW_SIZE`, where rows are wide enough. -/
theorem rowByte_lt {s : State} (hw : s.cfgWidth.toNat ≤ 8 * s.rowBytes)
    (hs : s.rawSize = s.rowBytes * s.cfgHeight.toNat) {y x : Nat} (hy : y < s.cfgHeight.toNat)
    (hx : x < s.cfgWidth.toNat) : y * s.rowBytes + x / 8 < s.rawSize := by
  rw [hs]
  have h : (y + 1) * s.rowBytes ≤ s.cfgHeight.toNat * s.rowBytes := Nat.mul_le_mul_right _ hy
  rw [Nat.add_mul] at h
  rw [Nat.mul_comm s.rowBytes]
  omega

/-! ### Faults -/

theorem takesFault_raise (s : State) (c : FaultCause) : takesFault s (s.raise c) (causeKind c) c := by
  simp [takesFault]

theorem raises_raise (s : State) (c : FaultCause) : raises (.next (s.raise c)) s (causeKind c) c :=
  ⟨s.raise c, rfl, takesFault_raise s c, by simp [sameConfig]⟩

theorem raises_raiseStreamEnd (s : State) : raises (.next s.raiseStreamEnd) s .invalidData .streamEnd :=
  ⟨s.raiseStreamEnd, rfl, by simp [takesFault, State.raiseStreamEnd, causeKind],
    by simp [sameConfig, State.raiseStreamEnd]⟩

/-! ### Runs -/

/-- A run of `k` copies from a state with room: as many as fit are written, nothing else but the run's registers and
the phase changes. -/
theorem emitRun_eq (k : Nat) (s : State) (hk : 0 < k) (h : s.opos < s.rawSize) :
    ∃ m : List Host.Cell,
      emitRun k s =
        .next
          { s with
            raw := m
            opos := s.opos + min k (s.rawSize - s.opos)
            rcount := s.rcount - BitVec.ofNat 9 (min k (s.rawSize - s.opos))
            rstate := .rByte
            phase := if s.opos + min k (s.rawSize - s.opos) = s.rawSize then .assemble else s.phase } ∧
      (Memory.wf s.raw = true → Memory.wf m = true) ∧
      (Memory.dense s.raw s.opos → Memory.dense m (s.opos + min k (s.rawSize - s.opos))) ∧
      ∀ i, Memory.read m i =
        if s.opos ≤ i ∧ i < s.opos + min k (s.rawSize - s.opos) then some s.rvalue else Memory.read s.raw i := by
  induction k generalizing s with
  | zero => omega
  | succ k ih =>
    unfold emitRun
    rw [emit_of_lt _ _ h]
    by_cases hf : s.opos + 1 = s.rawSize
    · have hm : min (k + 1) (s.rawSize - s.opos) = 1 := by omega
      refine ⟨Memory.write s.raw s.opos s.rvalue, ?_, Memory.wf_write _ _, fun hd => ?_, fun i => ?_⟩
      · simp [hf, State.afterToken, hm]
      · rw [hm]
        exact Memory.dense_write hd _
      · rw [hm, Memory.read_write]
        by_cases hi : i = s.opos
        · rw [if_pos hi, if_pos (by omega)]
        · rw [if_neg hi, if_neg (by omega)]
    · simp only [hf, if_false]
      by_cases hk0 : k = 0
      · subst hk0
        have hm : min 1 (s.rawSize - s.opos) = 1 := by omega
        refine ⟨Memory.write s.raw s.opos s.rvalue, ?_, Memory.wf_write _ _, fun hd => ?_, fun i => ?_⟩
        · simp [hf, State.afterToken, hm, emitRun]
        · simp only [Nat.zero_add, hm]
          exact Memory.dense_write hd _
        · simp only [Nat.zero_add, hm, Memory.read_write]
          by_cases hi : i = s.opos
          · rw [if_pos hi, if_pos (by omega)]
          · rw [if_neg hi, if_neg (by omega)]
      · obtain ⟨m, he, hw, hd, hr⟩ :=
          ih { s with raw := Memory.write s.raw s.opos s.rvalue, opos := s.opos + 1, rcount := s.rcount - 1 }
            (by omega) (by show s.opos + 1 < s.rawSize; omega)
        have hm : s.opos + min (k + 1) (s.rawSize - s.opos) = s.opos + 1 + min k (s.rawSize - (s.opos + 1)) := by
          omega
        have hc : s.rcount - 1 - BitVec.ofNat 9 (min k (s.rawSize - (s.opos + 1))) =
            s.rcount - BitVec.ofNat 9 (min (k + 1) (s.rawSize - s.opos)) := by
          have : min (k + 1) (s.rawSize - s.opos) = 1 + min k (s.rawSize - (s.opos + 1)) := by omega
          rw [this, BitVec.ofNat_add, ← sub_sub]
          rfl
        refine ⟨m, ?_, fun hs => hw (Memory.wf_write _ _ hs), fun hs => ?_, fun i => ?_⟩
        · rw [he, hm, ← hc]
        · rw [hm]
          exact hd (Memory.dense_write hs _)
        · rw [hr i, Memory.read_write, hm]
          show (if s.opos + 1 ≤ i ∧ i < s.opos + 1 + min k (s.rawSize - (s.opos + 1)) then some s.rvalue
            else if i = s.opos then some s.rvalue else Memory.read s.raw i) = _
          by_cases hi : i = s.opos
          · subst hi
            rw [if_neg (by omega), if_pos rfl, if_pos (by omega)]
          · rw [if_neg hi]
            by_cases h2 : s.opos + 1 ≤ i ∧ i < s.opos + 1 + min k (s.rawSize - (s.opos + 1))
            · rw [if_pos h2, if_pos (by omega)]
            · rw [if_neg h2, if_neg (by omega)]

/-- A run does not depend on the `RSTATE` it starts from. -/
theorem emitRun_rstate (k : Nat) (s : State) (hk : 0 < k) (h : s.opos < s.rawSize) (r : RState) :
    emitRun k { s with rstate := r } = emitRun k s := by
  induction k generalizing s with
  | zero => omega
  | succ k ih =>
    unfold emitRun
    rw [emit_of_lt _ _ h, emit_of_lt _ _ (by exact h)]
    dsimp only
    by_cases hf : s.opos + 1 = s.rawSize
    · rw [if_pos hf, if_pos hf, afterToken_eq, afterToken_eq]
    · rw [if_neg hf, if_neg hf]
      by_cases hk0 : k = 0
      · subst hk0
        simp only [emitRun, afterToken_eq]
      · exact ih { s with raw := Memory.write s.raw s.opos s.rvalue, opos := s.opos + 1, rcount := s.rcount - 1 }
          (by omega) (by show s.opos + 1 < s.rawSize; omega)

theorem runCount_toNat (c : Byte) : (runCount c).toNat = c.toNat + 1 := by
  unfold runCount
  have := c.isLt
  rw [BitVec.toNat_add, BitVec.toNat_setWidth]
  show (c.toNat % 512 + 1) % 512 = _
  omega

/-! ### Assembly -/

/-- An assembly operation reads nothing that assembling changes. -/
def Element.stable (elem : Element) : Prop :=
  ∀ (s : State) (m : Memory Pixel) (a b : Nat), elem { s with pix := m, ax := a, ay := b } = elem s

/-- Assembling from a pixel inside the image to the last: every element from there on is written, nothing else but
`AX` and `AY` changes before the completion. -/
theorem assembleRun_eq (elem : Element) (hs : elem.stable) (val : Nat → Pixel) (k : Nat) (s : State)
    (hx : 0 < k → s.ax < s.cfgWidth.toNat) (hk : s.pixIndex s.ay s.ax + k = s.pixCount)
    (hc : s.pixCount = s.cfgWidth.toNat * s.cfgHeight.toNat)
    (hv : ∀ y x, y < s.cfgHeight.toNat → x < s.cfgWidth.toNat → elem s y x = .ok (val (s.pixIndex y x))) :
    ∃ (m : Memory Pixel) (a b : Nat),
      assembleRun elem k s = .next ({ s with pix := m, ax := a, ay := b } : State).complete ∧
      (Memory.wf s.pix = true → Memory.wf m = true) ∧
      ∀ p, Memory.read m p =
        if s.pixIndex s.ay s.ax ≤ p ∧ p < s.pixCount then some (val p) else Memory.read s.pix p := by
  induction k generalizing s with
  | zero =>
    refine ⟨s.pix, s.ax, s.ay, rfl, id, fun p => ?_⟩
    rw [if_neg (by omega)]
  | succ k ih =>
    have hx := hx (Nat.succ_pos k)
    have hlt : s.pixIndex s.ay s.ax < s.pixCount := by omega
    have hy : s.ay < s.cfgHeight.toNat := by
      rw [hc] at hlt
      unfold State.pixIndex at hlt
      by_contra hge
      have h1 : s.cfgHeight.toNat * s.cfgWidth.toNat ≤ s.ay * s.cfgWidth.toNat := Nat.mul_le_mul_right _ (by omega)
      rw [Nat.mul_comm] at h1
      omega
    unfold assembleRun
    rw [hv _ _ hy hx]
    simp only [writePix_of_lt _ _ hlt]
    by_cases hk0 : k = 0
    · subst hk0
      refine ⟨Memory.write s.pix (s.pixIndex s.ay s.ax) (val (s.pixIndex s.ay s.ax)), s.ax, s.ay, rfl,
        Memory.wf_write _ _, fun p => ?_⟩
      rw [Memory.read_write]
      by_cases hp : p = s.pixIndex s.ay s.ax
      · subst hp
        rw [if_pos rfl, if_pos ⟨le_rfl, hlt⟩]
      · rw [if_neg hp, if_neg (by omega)]
    · rw [if_neg hk0]
      generalize hw : Memory.write s.pix (s.pixIndex s.ay s.ax) (val (s.pixIndex s.ay s.ax)) = w
      obtain ⟨a', b', hn, ha', hidx⟩ : ∃ a' b',
          ({ s with pix := w } : State).nextPixel = { s with pix := w, ax := a', ay := b' } ∧
          a' < s.cfgWidth.toNat ∧ s.pixIndex b' a' = s.pixIndex s.ay s.ax + 1 := by
        unfold State.nextPixel State.pixIndex
        by_cases h1 : s.ax + 1 = s.cfgWidth.toNat
        · refine ⟨0, s.ay + 1, by simp [h1], by omega, ?_⟩
          rw [Nat.add_mul]
          omega
        · refine ⟨s.ax + 1, s.ay, by simp [h1], by omega, ?_⟩
          omega
      rw [hn]
      obtain ⟨m, a, b, he, hwf, hr⟩ := ih { s with pix := w, ax := a', ay := b' } (fun _ => ha')
        (by show s.pixIndex b' a' + k = s.pixCount; omega) hc (by intro y x h1 h2; rw [hs]; exact hv y x h1 h2)
      refine ⟨m, a, b, he, fun h => hwf (by rw [← hw]; exact Memory.wf_write _ _ h), fun p => ?_⟩
      rw [hr p]
      show (if s.pixIndex b' a' ≤ p ∧ p < s.pixCount then some (val p) else Memory.read w p) = _
      rw [← hw, Memory.read_write, hidx]
      by_cases hp : p = s.pixIndex s.ay s.ax
      · subst hp
        rw [if_neg (by omega), if_pos rfl, if_pos ⟨le_rfl, hlt⟩]
      · rw [if_neg hp]
        by_cases h2 : s.pixIndex s.ay s.ax + 1 ≤ p ∧ p < s.pixCount
        · rw [if_pos h2, if_pos (by omega)]
        · rw [if_neg h2, if_neg (by omega)]

/-- Assembling that goes on completes, and has changed nothing but `PIX`, `AX` and `AY` before. -/
theorem assembleRun_next (elem : Element) (k : Nat) {s t : State} (h : assembleRun elem k s = .next t) :
    ∃ (m : Memory Pixel) (a b : Nat), (Memory.wf s.pix = true → Memory.wf m = true) ∧
      t = ({ s with pix := m, ax := a, ay := b } : State).complete := by
  induction k generalizing s with
  | zero =>
    unfold assembleRun at h
    cases h
    exact ⟨s.pix, s.ax, s.ay, id, rfl⟩
  | succ k ih =>
    unfold assembleRun at h
    split at h
    · cases h
    · unfold State.writePix at h
      split at h
      · split at h
        · cases h
          exact ⟨_, s.ax, s.ay, Memory.wf_write _ _, rfl⟩
        · obtain ⟨m, a, b, hw, he⟩ := ih h
          unfold State.nextPixel at he hw
          split at he
          · rename_i hx
            simp only [hx, if_true] at hw
            exact ⟨m, a, b, fun hs => hw (Memory.wf_write _ _ hs), he⟩
          · rename_i hx
            simp only [hx, if_false] at hw
            exact ⟨m, a, b, fun hs => hw (Memory.wf_write _ _ hs), he⟩
      · cases h

/-- A whole assembly operation on a ready image. -/
theorem assemble_eq (elem : Element) (hs : elem.stable) (val : Nat → Pixel) (s : State) (hr : readyToAssemble s)
    (hv : ∀ y x, y < s.cfgHeight.toNat → x < s.cfgWidth.toNat → elem s y x = .ok (val (s.pixIndex y x))) :
    ∃ (m : Memory Pixel) (a b : Nat),
      s.assemble elem = .next ({ s with pix := m, ax := a, ay := b } : State).complete ∧
      (Memory.wf s.pix = true → Memory.wf m = true) ∧
      ∀ p, Memory.read m p = if p < s.pixCount then some (val p) else Memory.read s.pix p := by
  obtain ⟨hax, hay, hc, -⟩ := hr
  have h0 : s.pixIndex s.ay s.ax = 0 := by
    unfold State.pixIndex
    rw [hax, hay]
    simp
  obtain ⟨m, a, b, he, hwf, hread⟩ := assembleRun_eq elem hs val (s.pixCount - s.pixIndex s.ay s.ax) s
    (by
      intro h
      rw [hax]
      by_contra hw
      have : s.cfgWidth.toNat = 0 := by omega
      rw [hc, this] at h
      simp at h)
    (by omega) hc hv
  refine ⟨m, a, b, he, hwf, fun p => ?_⟩
  rw [hread p, h0]
  simp

theorem elementG1_stable : elementG1.stable := fun _ _ _ _ => rfl
theorem elementG8_stable : elementG8.stable := fun _ _ _ _ => rfl
theorem elementRgb24_stable : elementRgb24.stable := fun _ _ _ _ => rfl
theorem elementBgr24_stable : elementBgr24.stable := fun _ _ _ _ => rfl
theorem elementIdx8_stable : elementIdx8.stable := fun _ _ _ _ => rfl
theorem elementIdx1_stable : elementIdx1.stable := fun _ _ _ _ => rfl
theorem elementRgba32_stable : elementRgba32.stable := fun _ _ _ _ => rfl

end Sys2Proof.Machine
end

