-- ==== Sys2Proof/Laws/Step.lean ====
section
/-! SUPPORT. What a step can do, said once: which of its branches a state takes, and what entering a phase adds. -/

namespace Sys2Proof.Machine

theorem step_of_idle_host {s : State} (h : s.pending = []) : step s = seqStep s := by
  unfold step machineStep
  rw [h]

theorem step_of_host {s : State} {m : HostMove} {rest : List HostMove} (h : s.pending = m :: rest) :
    step s = hostMove m { s with pending := rest } := by
  unfold step machineStep
  rw [h]

/-- A resting phase is left as it is. -/
theorem seqStep_of_resting {s : State} (h : Phase.isBusy s.phase = false) : seqStep s = .next s := by
  simp [seqStep, h]

/-- The rest of a token under way. -/
theorem seqStep_of_midToken {s : State} (h : s.midToken = true) : seqStep s = enterPhase s.phase (rleTransition s) := by
  have hp : s.phase = .decomp := by simp [State.midToken] at h; exact h.1.1
  have hb : Phase.isBusy s.phase = true := by rw [hp]; rfl
  simp [seqStep, hb, h]

/-- An operation that the stream gives. -/
theorem seqStep_of_decode {s : State} {sel : Sel} {i : Instr} (hb : Phase.isBusy s.phase = true)
    (hm : s.midToken = false) (hs : s.selection = some sel) (hd : decode sel s.remaining = .ok i) :
    seqStep s = enterPhase s.phase (exec i s) := by
  simp [seqStep, hb, hm, hs, hd]

/-- A stream that ends inside the operation's bytes. -/
theorem seqStep_of_streamEnd {s : State} {sel : Sel} (hb : Phase.isBusy s.phase = true)
    (hm : s.midToken = false) (hs : s.selection = some sel) (hd : decode sel s.remaining = .error .streamEnd) :
    seqStep s = .next s.raiseStreamEnd := by
  simp [seqStep, hb, hm, hs, hd]

/-- An operation that keeps the phase enters none. -/
theorem enterPhase_same {p : Phase} {t : State} (h : t.phase = p) : enterPhase p (.next t) = .next t := by
  simp [enterPhase, h]

/-- An operation that leaves the phase enters the next. -/
theorem enterPhase_new {p : Phase} {t : State} (h : t.phase ≠ p) : enterPhase p (.next t) = .next t.enter := by
  simp [enterPhase, h]

/-- After a fault nothing is entered. -/
theorem enter_raise (s : State) (c : FaultCause) : (s.raise c).enter = s.raise c := rfl

/-- A token that decodes is one of the three. -/
theorem decodeToken_cases {bytes : List Byte} {i : Instr} (h : decodeToken bytes = .ok i) :
    (∃ b, i = .lit b) ∨ i = .esc0 ∨ ∃ c v, i = .run c v := by
  unfold decodeToken at h
  split at h
  · cases h
  · split at h
    · split at h
      · cases h
      · split at h
        · cases h
          exact .inr (.inl rfl)
        · split at h
          · cases h
          · cases h
            exact .inr (.inr ⟨_, _, rfl⟩)
    · cases h
      exact .inl ⟨_, rfl⟩

/-- A format that `RESOLVE` chooses has its depth in the table. -/
theorem resolveFormat_cases {d : Word} {ty : RasType} {p : Bool} {f : PixelFormat}
    (h : resolveFormat d ty p = some f) :
    (d = 24 ∧ (f = .rgb24 ∨ f = .bgr24)) ∨ (d = 32 ∧ f = .rgba32) ∨ (d = 8 ∧ (f = .indexed8 ∨ f = .grayscale8)) ∨
      (d = 1 ∧ (f = .indexed8 ∨ f = .grayscale1)) := by
  unfold resolveFormat at h
  split at h
  · refine .inl ⟨‹_›, ?_⟩
    cases h
    split <;> simp
  split at h
  · refine .inr (.inl ⟨‹_›, ?_⟩)
    cases h
    rfl
  split at h
  · refine .inr (.inr (.inl ⟨‹_›, ?_⟩))
    cases h
    split <;> simp
  split at h
  · refine .inr (.inr (.inr ⟨‹_›, ?_⟩))
    cases h
    split <;> simp
  · cases h

/-- The flags of a state that meets the invariant, in a busy phase. -/
theorem Inv.busy_flags {s : State} (hi : Inv s) (hb : Phase.isBusy s.phase = true) :
    s.busy = true ∧ s.done = false ∧ s.fault = false ∧ s.pixValid = false ∧ s.detectResult = false ∧
      s.faultKind = .none ∧ s.faultCause = .none := by
  obtain ⟨h1, h2, h3, h4, h5, h6, h7⟩ := hi.flags
  cases hp : s.phase <;> simp [hp, Phase.isBusy] at * <;> simp_all [causeKind]

end Sys2Proof.Machine
end

