-- ==== Sys2Proof/Laws/HostPort.lean ====
section
/-! SUPPORT. What each host move can do: when a register read is admitted, and that a read, a write, a close and an
attach answer the state they name. -/

namespace Sys2Proof.Machine

@[simp] theorem RasType.code_ofCode (v : BitVec 3) : RasType.code (RasType.ofCode v) = v := by revert v; decide
@[simp] theorem CmapType.code_ofCode (v : BitVec 2) : CmapType.code (CmapType.ofCode v) = v := by revert v; decide

/-- A register read changes nothing but that the move has been made, or is refused. -/
theorem step_of_readReg {s : State} {n : BitVec 4} {rest : List HostMove} (h : s.pending = .readReg n :: rest) :
    step s =
      if (s.hostReadReg n).isSome then .next { s with pending := rest }
      else .refused (s.readRegRefusal n) := step_of_host h

theorem step_of_writeReg {s : State} {n : BitVec 4} {v : Word} {rest : List HostMove}
    (h : s.pending = .writeReg n v :: rest) : step s = State.hostWriteReg { s with pending := rest } n v := step_of_host h

theorem step_of_close {s : State} {rest : List HostMove} (h : s.pending = .close :: rest) :
    step s = .next { s with pending := rest, input := s.input.take s.ipos } := step_of_host h

theorem step_of_attach {s : State} {bytes : List Byte} {rest : List HostMove} (h : s.pending = .attach bytes :: rest) :
    step s =
      if s.busy then .refused .attachWhileBusy
      else .next { s with pending := rest, input := s.input.takeD s.ipos 0 ++ bytes } := step_of_host h

/-- A register write stops on nothing. -/
theorem hostWriteReg_next (s : State) (n : BitVec 4) (v : Word) : ∃ t, s.hostWriteReg n v = .next t := by
  have ite_next : ∀ {c : Prop} [Decidable c] {a b : Out},
      (∃ t, a = .next t) → (∃ t, b = .next t) → ∃ t, (if c then a else b) = .next t := by
    intro c _ a b ha hb
    split
    · exact ha
    · exact hb
  unfold State.hostWriteReg State.command
  repeat' first | refine ite_next ?_ ?_ | exact ⟨_, rfl⟩

/-- Attaching puts the bytes at `IPOS`, wherever the last stream ended. -/
@[simp] theorem drop_takeD_append (input bytes : List Byte) (k : Nat) : (input.takeD k 0 ++ bytes).drop k = bytes :=
  List.drop_left' (by simp)

/-- After a close nothing is left to pull. -/
@[simp] theorem drop_take_self (input : List Byte) (k : Nat) : (input.take k).drop k = [] := by simp

theorem State.fmtHeld_iff (s : State) :
    s.fmtHeld = true ↔
      s.phase = .idle ∨ s.phase = .cmap ∨ s.phase = .size ∨ s.phase = .decomp ∨ s.phase = .assemble ∨
        (s.phase = .done ∧ s.pixValid = true) := by
  unfold State.fmtHeld
  cases s.phase <;> simp

theorem State.outHeld_iff (s : State) :
    s.outHeld = true ↔ s.phase = .idle ∨ (s.phase = .done ∧ s.pixValid = true) := by
  unfold State.outHeld
  cases s.phase <;> simp

theorem State.palCountHeld_iff (s : State) : s.palCountHeld = true ↔ s.phase ≠ .fault := by
  simp [State.palCountHeld]

/-- A register read answers a value exactly where the register can be read and holds one. -/
theorem hostReadReg_isSome (s : State) (n : BitVec 4) :
    (s.hostReadReg n).isSome = true ↔
      n ≠ 15 ∧ (n = 9 → s.fmtHeld = true) ∧ (n = 10 ∨ n = 11 → s.outHeld = true) ∧
        (n = 12 → s.palCountHeld = true) := by
  have cases16 : ∀ m : BitVec 4, m = 0 ∨ m = 1 ∨ m = 2 ∨ m = 3 ∨ m = 4 ∨ m = 5 ∨ m = 6 ∨ m = 7 ∨ m = 8 ∨ m = 9 ∨
      m = 10 ∨ m = 11 ∨ m = 12 ∨ m = 13 ∨ m = 14 ∨ m = 15 := by decide
  rcases cases16 n with rfl | rfl | rfl | rfl | rfl | rfl | rfl | rfl | rfl | rfl | rfl | rfl | rfl | rfl | rfl | rfl <;>
    simp [State.hostReadReg]

end Sys2Proof.Machine
end

