-- ==== Sys2Proof/Laws/PerInstr.lean ====
section
/-! SUPPORT. Statements made of every operation as syntax, one lemma a constructor. -/

namespace Sys2Proof.Laws.EncodedLength

/-- The encoding of an operation has as many bytes as the operation is said to take. -/
def Statement (i : Instr) : Prop := (encode i).length = i.byteLength

theorem detect : Statement .detect := rfl
theorem magic (w : Word) : Statement (.magic w) := rfl
theorem hdr (width height depth length type cmapType cmapLength : Word) :
    Statement (.hdr width height depth length type cmapType cmapLength) := rfl
theorem resolve : Statement .resolve := rfl
theorem cmap : Statement .cmap := rfl
theorem size : Statement .size := rfl
theorem rawb (b : Byte) : Statement (.rawb b) := rfl
theorem esc0 : Statement .esc0 := rfl
theorem run (c v : Byte) : Statement (.run c v) := rfl
theorem lit (b : Byte) : Statement (.lit b) := rfl
theorem asmG1 : Statement .asmG1 := rfl
theorem asmG8 : Statement .asmG8 := rfl
theorem asmRgb24 : Statement .asmRgb24 := rfl
theorem asmBgr24 : Statement .asmBgr24 := rfl
theorem asmIdx8 : Statement .asmIdx8 := rfl
theorem asmIdx1 : Statement .asmIdx1 := rfl
theorem asmRgba32 : Statement .asmRgba32 := rfl

end Sys2Proof.Laws.EncodedLength
end

