-- ==== Sys2Proof/Tests/Slice0.lean ====
section
/-! SUPPORT. The package's tests: the smoke test of WellFormed, decodings of words written out from spec/30_encoding.md,
one-step tests whose expected results are the vectors of spec/95_test_vectors.md, and a witness for the hypotheses of
each obligation. -/

namespace Sys2Proof.Tests

open Sys2Proof Sys2Proof.Machine

/-! ### Small states -/

/-- A state in a phase, with these bytes coming next. -/
def inPhase (p : Phase) (bytes : List Byte) : State :=
  { State.reset with phase := p, busy := Phase.isBusy p, input := bytes }

/-- In `DECOMP`, with a type and a size of `RAW`. -/
def inDecomp (ty : RasType) (size : Nat) (bytes : List Byte) : State :=
  { inPhase .decomp bytes with cfgType := ty, rawSize := size }

/-- In `ASSEMBLE`, with a whole bitmap. -/
def inAssemble (w h d : Nat) (ty : RasType) (f : PixelFormat) (bytes : List Byte) : State :=
  { inPhase .assemble [] with
    cfgWidth := BitVec.ofNat 32 w
    cfgHeight := BitVec.ofNat 32 h
    cfgDepth := BitVec.ofNat 32 d
    cfgType := ty
    fmt := f
    rowBytes := rowBytesOf w d
    rawSize := rawSizeOf w h d
    pixCount := w * h
    opos := bytes.length
    raw := Memory.writeAll [] 0 bytes }

/-- A completed decode: two `indexed8` elements and a palette of one entry. -/
def completed : State :=
  { State.reset with
    phase := .done, done := true, pixValid := true, fmt := .indexed8, pixCount := 2, outWidth := 2, outHeight := 1
    pal := [(0, { r := 1, g := 2, b := 3, a := 255 })], palCount := 1
    pix := [(0, .indexed8 0), (1, .indexed8 5)] }

/-- After `CapacityExceeded`. -/
def faulted : State :=
  { inPhase .fault [] with fault := true, faultKind := .resource, faultCause := .capacityExceeded }

/-- The outcome is a next state with a property. -/
def nextWith (o : Out) (p : State → Bool) : Bool :=
  match o with
  | .next t => p t
  | .fault _ => false
  | .refused _ => false

/-- The outcome is a next state in which that fault stands (the end state of spec/95_test_vectors.md section 2.11). -/
def faultsWith (o : Out) (c : FaultCause) : Bool :=
  nextWith o fun t =>
    t.faultCause == c && t.faultKind == causeKind c && t.phase == .fault && t.fault && !t.busy && !t.done

/-! ### WellFormed (R70) -/

theorem test_lit_of_escape_is_ill_formed : (Instr.lit 0x80).wellFormed = false := by decide
theorem test_run_of_zero_is_ill_formed : (Instr.run 0 0x41).wellFormed = false := by decide
theorem test_lit_and_run_are_well_formed :
    (Instr.lit 0x81).wellFormed = true ∧ (Instr.run 0xFF 0x80).wellFormed = true := by decide

/-! ### Decoding, words from R60, R61, R70 and R150 -/

theorem test_decode_magic : decode .magic [0x59, 0xA6, 0x6A, 0x95, 0x12] = .ok (.magic 0x59A66A95) := by decide
theorem test_decode_hdr_v_hdr_2 :
    decode .header
        [0x01, 0x02, 0x03, 0x04, 0xFF, 0xFF, 0xFF, 0xFF, 0, 0, 0, 0x20, 0x80, 0, 0, 0, 0, 0, 0, 3, 0, 0, 0, 1,
          0, 0, 0x03, 0x00] =
      .ok (.hdr 16909060 4294967295 32 2147483648 3 1 768) := by decide
theorem test_decode_rawb : decode .rawCopy [0x80, 0x00] = .ok (.rawb 0x80) := by decide
theorem test_decode_lit : decode .rle [0x7F, 0x80] = .ok (.lit 0x7F) := by decide
theorem test_decode_esc0 : decode .rle [0x80, 0x00, 0x41] = .ok .esc0 := by decide
theorem test_decode_run : decode .rle [0x80, 0x80, 0x41] = .ok (.run 0x80 0x41) := by decide
theorem test_decode_incomplete_tokens :
    decode .rle [0x80] = .error .streamEnd ∧ decode .rle [0x80, 0x04] = .error .streamEnd := by decide
theorem test_decode_by_phase_alone :
    decode .detect [] = .ok .detect ∧ decode .resolve [] = .ok .resolve ∧ decode .cmap [] = .ok .cmap ∧
      decode .size [] = .ok .size := by decide
theorem test_decode_assembly :
    decode (.asm .grayscale1 1) [] = .ok .asmG1 ∧ decode (.asm .grayscale8 8) [] = .ok .asmG8 ∧
      decode (.asm .rgb24 24) [] = .ok .asmRgb24 ∧ decode (.asm .bgr24 24) [] = .ok .asmBgr24 ∧
      decode (.asm .indexed8 8) [] = .ok .asmIdx8 ∧ decode (.asm .indexed8 1) [] = .ok .asmIdx1 ∧
      decode (.asm .rgba32 32) [] = .ok .asmRgba32 := by decide
theorem test_decode_no_assembly : decode (.asm .grayscale8 1) [] = .error .noAssembly := by decide

/-! ### Front end, vectors of sections 2.1 to 2.6 -/

theorem test_detect_v_det_1 :
    nextWith (exec .detect (inPhase .idle [0x59, 0xA6, 0x6A, 0x95, 0x12, 0x34]))
      (fun t => t.detectResult && t.ipos == 0 && t.phase == .done) = true := by decide
theorem test_detect_v_det_8 :
    nextWith (exec .detect (inPhase .idle [0x59, 0xA6, 0x6A]))
      (fun t => !t.detectResult && t.ipos == 0 && t.phase == .done && !t.fault) = true := by decide
theorem test_magic_v_mag_1 :
    nextWith (step (inPhase .magic [0x59, 0xA6, 0x6A, 0x95])) (fun t => t.phase == .header && t.ipos == 4) = true := by
  decide
theorem test_magic_v_mag_2 : faultsWith (step (inPhase .magic [0x59, 0xA6, 0x6A, 0x96, 0, 0])) .badMagic = true := by
  decide
theorem test_hdr_v_hdr_1 :
    nextWith
      (step
        (inPhase .header [0, 0, 0, 2, 0, 0, 0, 3, 0, 0, 0, 8, 0, 0, 0, 6, 0, 0, 0, 2, 0, 0, 0, 0, 0, 0, 0, 0]))
      (fun t =>
        t.cfgWidth == 2 && t.cfgHeight == 3 && t.cfgDepth == 8 && t.cfgLength == 6 && t.cfgType == .byteEncoded &&
          t.cfgCmapType == .none && t.cfgCmapLength == 0 && t.phase == .resolve) = true := by decide
theorem test_hdr_v_hdr_6 :
    faultsWith
      (step
        (inPhase .header [0, 0, 0, 2, 0, 0, 0, 3, 0, 0, 0, 8, 0, 0, 0, 6, 2, 0, 0, 0, 0, 0, 0, 0, 0, 0, 0, 0]))
      .badEnumCode = true := by decide
theorem test_resolve_v_res_9 :
    nextWith (step { inPhase .resolve [] with cfgDepth := 24, cfgType := .old, cfgCmapLength := 768 })
      (fun t => t.fmt == .bgr24 && t.palPresent && t.phase == .cmap) = true := by decide
theorem test_resolve_v_res_13 : faultsWith (step { inPhase .resolve [] with cfgDepth := 16 }) .unsupportedDepth = true := by
  decide
theorem test_cmap_v_cm_4 :
    nextWith (step { inPhase .cmap [1, 2, 3, 4, 5, 6, 7] with cfgCmapType := .rgb, cfgCmapLength := 7 })
      (fun t =>
        t.palCount == 2 && t.pal == [(0, ⟨1, 3, 5, 255⟩), (1, ⟨2, 4, 6, 255⟩)] && t.ipos == 7 && t.phase == .size) =
      true := by decide
theorem test_cmap_v_cm_9 :
    nextWith (step { inPhase .cmap [7, 8, 9] with cfgCmapType := .none, cfgCmapLength := 3 })
      (fun t => t.palCount == 0 && t.ipos == 0 && t.phase == .size) = true := by decide
theorem test_size_v_sz_8 :
    nextWith (exec .size { inPhase .size [] with cfgWidth := 33, cfgHeight := 2, cfgDepth := 1 })
      (fun t => t.rowBytes == 6 && t.rawSize == 12 && t.pixCount == 66) = true := by decide
theorem test_size_v_sz_17 :
    nextWith (exec .size { inPhase .size [] with cfgWidth := 4294967295, cfgHeight := 4294967295, cfgDepth := 32 })
      (fun t =>
        t.rowBytes == 17179869180 && t.rawSize == 73786976260478468100 && t.pixCount == 18446744065119617025) =
      true := by decide

/-! ### Decompressor, vectors of sections 2.7 and 2.8 -/

theorem test_rawb_v_raw_1 :
    nextWith (step (inDecomp .standard 3 [0x80, 0x00, 0x41, 0xFF]))
      (fun t => t.raw == [(0, 0x80)] && t.opos == 1 && t.ipos == 1 && t.phase == .decomp) = true := by decide
theorem test_rawb_v_raw_2 : faultsWith (step (inDecomp .old 4 [])) .streamEnd = true := by decide
theorem test_lit_v_rle_1 :
    nextWith (step (inDecomp .byteEncoded 1 [0x41]))
      (fun t => t.raw == [(0, 0x41)] && t.ipos == 1 && t.phase == .assemble) = true := by decide
theorem test_esc0_v_rle_15 :
    nextWith (step (inDecomp .byteEncoded 1 [0x80, 0x00, 0x41]))
      (fun t => t.raw == [(0, 0x80)] && t.ipos == 2 && t.phase == .assemble) = true := by decide
theorem test_run_v_rle_3 :
    nextWith (step (inDecomp .byteEncoded 3 [0x80, 0x02, 0x41]))
      (fun t => t.raw == [(0, 0x41), (1, 0x41), (2, 0x41)] && t.ipos == 3 && t.phase == .assemble) = true := by decide
/-- The truncated-run trace of section 2.8: `RCOUNT = 1` is still pending. -/
theorem test_run_v_rle_4 :
    nextWith (step (inDecomp .byteEncoded 2 [0x80, 0x02, 0x41]))
      (fun t => t.raw == [(0, 0x41), (1, 0x41)] && t.ipos == 3 && t.rcount == 1 && t.phase == .assemble) = true := by
  decide
theorem test_run_v_rle_22 : faultsWith (step (inDecomp .byteEncoded 2 [0x80, 0x80])) .streamEnd = true := by decide
/-- Steps 4 to 6 of the state-machine trace of section 2.8. -/
theorem test_byte_level_trace :
    nextWith (rleTransitions 3 (inDecomp .byteEncoded 6 [0x80, 0x02, 0x41, 0x22]))
      (fun t => t.rstate == .rRun && t.rcount == 3 && t.rvalue == 0x41 && t.ipos == 3 && t.opos == 0) = true := by
  decide
theorem test_entry_v_mode_5 :
    faultsWith (step { inPhase .size [] with cfgDepth := 8, cfgType := .tiff }) .unsupportedType = true := by decide

/-! ### Assembler, vectors of section 2.10 -/

theorem test_asm_g1_v_asm_g1_1 :
    nextWith (step (inAssemble 8 1 1 .standard .grayscale1 [0xB0, 0x00]))
      (fun t =>
        t.pix.map Prod.snd == [0, 1, 0, 0, 1, 1, 1, 1].map .grayscale1 && t.phase == .done && t.pixValid) = true := by
  decide
theorem test_asm_g1_v_asm_g1_5 :
    nextWith (step (inAssemble 1 2 1 .standard .grayscale1 [0x80, 0xFF, 0x00, 0xFF]))
      (fun t => t.pix == [(0, .grayscale1 0), (1, .grayscale1 1)]) = true := by decide
theorem test_asm_g8_v_asm_g8_1 :
    nextWith (step (inAssemble 4 1 8 .standard .grayscale8 [0x00, 0x7F, 0x80, 0xFF]))
      (fun t => t.pix.map Prod.snd == [0, 127, 128, 255].map .grayscale8 && t.outWidth == 4 && t.outHeight == 1) =
      true := by decide
theorem test_asm_rgb24_v_asm_rgb24_1 :
    nextWith (step (inAssemble 2 1 24 .rgb .rgb24 [1, 2, 3, 4, 5, 6]))
      (fun t => t.pix == [(0, .rgb24 1 2 3), (1, .rgb24 4 5 6)]) = true := by decide
theorem test_asm_bgr24_v_asm_bgr24_1 :
    nextWith (step (inAssemble 2 1 24 .standard .bgr24 [1, 2, 3, 4, 5, 6]))
      (fun t => t.pix == [(0, .bgr24 1 2 3), (1, .bgr24 4 5 6)]) = true := by decide
theorem test_asm_idx8_v_asm_idx8_2 :
    nextWith (step (inAssemble 2 1 8 .standard .indexed8 [0x07, 0x08]))
      (fun t => t.pix == [(0, .indexed8 7), (1, .indexed8 8)] && t.palCount == 0) = true := by decide
theorem test_asm_idx1_v_asm_idx1_1 :
    nextWith (step (inAssemble 9 2 1 .old .indexed8 [0xB0, 0x80, 0x01, 0x00]))
      (fun t =>
        t.pix.map Prod.snd == [1, 0, 1, 1, 0, 0, 0, 0, 1, 0, 0, 0, 0, 0, 0, 0, 1, 0].map .indexed8) = true := by decide
theorem test_asm_idx1_v_asm_idx1_2 :
    nextWith
      (step
        { inAssemble 9 2 1 .old .indexed8 [0xB0, 0x80, 0x01, 0x00] with
          params := { Config.paramsDefault with idx1Invert := true } })
      (fun t =>
        t.pix.map Prod.snd == [0, 1, 0, 0, 1, 1, 1, 1, 0, 1, 1, 1, 1, 1, 1, 1, 0, 1].map .indexed8) = true := by decide
theorem test_asm_rgba32_v_asm_rgba_1 :
    nextWith (step (inAssemble 2 1 32 .rgb .rgba32 [0x00, 0x10, 0x20, 0x30, 0x80, 0x00, 0x80, 0x09]))
      (fun t => t.pix == [(0, .rgba32 16 32 48 255), (1, .rgba32 0 128 9 255)]) = true := by decide
theorem test_asm_rgba32_v_asm_rgba_3 :
    nextWith (step (inAssemble 1 1 32 .standard .rgba32 [0xFF, 1, 2, 3]))
      (fun t => t.pix == [(0, .rgba32 3 2 1 255)]) = true := by decide
theorem test_asm_of_empty_image_v_asm_0 :
    nextWith (step (inAssemble 0 5 8 .standard .grayscale8 []))
      (fun t => t.phase == .done && t.pixValid && t.pix == [] && t.pixCount == 0) = true := by decide

/-! ### Host side -/

/-- Section 2.11: `STATUS` and `FAULT_INFO` of V-FLT-5; program P1: `STATUS` at its end. -/
theorem test_status_words :
    nextWith (step { inPhase .resolve [] with cfgDepth := 16 })
        (fun t => t.hostReadReg 7 == some 0x904 && t.hostReadReg 8 == some 0x52) = true ∧
      completed.hostReadReg 7 = some 0x80A := by decide
/-- R96: a command clears the fault record. -/
theorem test_command_clears_fault_record :
    nextWith
      (step
        { inPhase .fault [] with
          fault := true, faultKind := .unsupported, faultCause := .unsupportedDepth, pending := [.writeReg 15 1] })
      (fun t => !t.fault && t.faultKind == .none && t.faultCause == .none && t.busy && t.phase == .magic) = true := by
  decide
/-- D2: channels from the most significant used byte. -/
theorem test_read_ports :
    completed.hostReadPal 0 = some 0x010203FF ∧ completed.hostReadPix 1 = some 5 ∧
      Pixel.portData (.bgr24 1 2 3) = 0x010203 := by decide

/-- R191, U8: `OUT_FMT` and `PAL_COUNT` cannot be read after a fault, `STATUS` can. -/
theorem test_released_registers_are_refused :
    faulted.hostReadReg 9 = none ∧ faulted.hostReadReg 12 = none ∧ faulted.hostReadReg 7 = some 0x904 ∧
      step { faulted with pending := [.readReg 12] } = .refused .readAfterFault := ⟨by decide, by decide, by decide, rfl⟩

/-- R35: after a command nothing of the last result's registers can be read before the new one writes it, nor after a
`DETECT`; `FMT` is there from `RESOLVE` on. -/
theorem test_unwritten_registers_are_refused :
    nextWith (step { completed with pending := [.writeReg 15 1] })
        (fun t => t.hostReadReg 9 == none && t.hostReadReg 10 == none && t.hostReadReg 12 == some 0) = true ∧
      nextWith (step { completed with pending := [.writeReg 15 0] })
        (fun t => t.hostReadReg 9 == none && t.hostReadReg 11 == none) = true ∧
      (inPhase .cmap []).hostReadReg 9 = some 0 ∧ completed.hostReadReg 10 = some 2 ∧
      step { inPhase .resolve [] with pending := [.readReg 9] } = .refused .registerUnwritten :=
  ⟨by decide, by decide, by decide, by decide, rfl⟩

/-! ### Fetching a row of the table -/

theorem test_with_fetch_word_magic :
    nextWith (step (State.reset.withFetchWord 32 0x59A66A95)) (fun t => t.phase == .header && t.ipos == 4) = true := by
  decide
theorem test_with_fetch_word_run :
    nextWith (step (State.reset.withFetchWord 24 0x800241))
      (fun t => t.raw == [(0, 0x41), (1, 0x41), (2, 0x41)] && t.ipos == 3) = true := by decide

/-! ### Witnesses: states and operands that meet the hypotheses of each obligation -/

theorem witness_inv_completed : Inv completed :=
  ⟨by decide, ⟨by decide, by decide, by decide, by decide, by decide, by decide, by decide⟩,
    ⟨by decide, by decide, by decide⟩, ⟨by decide, by decide, by decide⟩, by decide, by decide, by decide,
    ⟨by decide, by decide⟩, by decide⟩

theorem witness_inv_faulted : Inv faulted :=
  ⟨by decide, ⟨by decide, by decide, by decide, by decide, by decide, by decide, by decide⟩,
    ⟨by decide, by decide, by decide⟩, ⟨by decide, by decide, by decide⟩, by decide, by decide, by decide,
    ⟨by decide, by decide⟩, by decide⟩

/-- In `DECOMP`, one literal away from the end, with the configuration that leads there. -/
def decompressing : State :=
  { inDecomp .byteEncoded 2 [0x41, 0x42] with
    cfgWidth := 2, cfgHeight := 1, cfgDepth := 8, fmt := .grayscale8, rowBytes := 2, pixCount := 2, opos := 1, ipos := 1
    raw := [(0, 0x41)] }

theorem witness_inv_decompressing : Inv decompressing :=
  ⟨by decide, ⟨by decide, by decide, by decide, by decide, by decide, by decide, by decide⟩,
    ⟨by decide, by decide, by decide⟩, ⟨by decide, by decide, by decide⟩, by decide, by decide, by decide,
    ⟨by decide, by decide⟩, by decide⟩

theorem witness_ResetIsTakenInAnyPhase : ∃ s : State, s.busy = true ∧ s.pending = .reset :: [] :=
  ⟨{ decompressing with pending := [.reset] }, by decide, rfl⟩

theorem witness_EveryStepKeepsTheInvariant : ∃ s t : State, Inv s ∧ step s = .next t ∧ t.phase = .assemble :=
  ⟨decompressing, _, witness_inv_decompressing, rfl, by decide⟩

theorem inv_pending {s : State} (h : Inv s) (p : List HostMove) : Inv { s with pending := p } :=
  ⟨h.stream, ⟨h.flags.busy, h.flags.done, h.flags.fault, h.flags.pixValid, h.flags.detectResult, h.flags.kind,
    h.flags.record⟩, ⟨h.stores.raw, h.stores.pal, h.stores.pix⟩, ⟨h.palette.count, h.palette.dense, h.palette.early⟩,
    h.format, h.sizes, h.decomp, ⟨h.assemble.raw, h.assemble.released⟩, h.result⟩

theorem witness_InvariantStatesReachNoModelFault :
    (∃ a b c d e : State, Inv a ∧ step a = .refused .writeOnlyRegister ∧ Inv b ∧ step b = .refused .palReadRefused ∧
      Inv c ∧ step c = .refused .pixReadRefused ∧ Inv d ∧ step d = .refused .attachWhileBusy ∧
      Inv e ∧ e.pending = []) ∧
    ∃ f g k : State, Inv f ∧ f.phase = .fault ∧ f.pending = [.readReg 9] ∧ step f = .refused .readAfterFault ∧
      Inv g ∧ g.phase = .fault ∧ g.pending = [.readReg 12] ∧ step g = .refused .readAfterFault ∧
      Inv k ∧ k.pending = [.readReg 11] ∧ step k = .refused .registerUnwritten :=
  ⟨⟨{ completed with pending := [.readReg 15] }, { completed with pending := [.readPal 1] },
      { completed with pending := [.readPix 2] }, { decompressing with pending := [.attach []] }, decompressing,
      inv_pending witness_inv_completed _, rfl, inv_pending witness_inv_completed _, rfl,
      inv_pending witness_inv_completed _, rfl, inv_pending witness_inv_decompressing _, rfl,
      witness_inv_decompressing, rfl⟩,
    { faulted with pending := [.readReg 9] }, { faulted with pending := [.readReg 12] },
    { decompressing with pending := [.readReg 11] },
    inv_pending witness_inv_faulted _, rfl, rfl, rfl, inv_pending witness_inv_faulted _, rfl, rfl, rfl,
    inv_pending witness_inv_decompressing _, rfl, rfl⟩

theorem witness_EveryCommandReachesDoneOrFault :
    ∃ s : State, Inv s ∧ s.pending = [] ∧ Phase.isBusy s.phase = true :=
  ⟨decompressing, witness_inv_decompressing, rfl, by decide⟩

theorem witness_FlagsFollowThePhase : ∃ s t : State, FlagsInv s ∧ step s = .next t ∧ t.phase ≠ s.phase :=
  ⟨decompressing, _, witness_inv_decompressing.flags, rfl, by decide⟩

theorem witness_StoresStayCanonical : ∃ s t : State, StoresInv s ∧ step s = .next t ∧ t.raw ≠ s.raw :=
  ⟨decompressing, _, witness_inv_decompressing.stores, rfl, by decide⟩

theorem witness_PhaseMovesOnlyForward : ∃ s t : State, s.pending = [] ∧ step s = .next t ∧ t.phase ≠ s.phase :=
  ⟨decompressing, _, rfl, rfl, by decide⟩

theorem witness_OnlyHeaderWritesConfiguration :
    ∃ s t : State, step s = .next t ∧ s.pending = [] ∧ s.phase ≠ .header :=
  ⟨decompressing, _, rfl, rfl, by decide⟩

theorem witness_StreamIsReadOnlyAndForward :
    ∃ s t : State, s.pending = [] ∧ s.ipos + 1 ≤ s.input.length ∧ step s = .next t ∧ t.phase ≠ .fault :=
  ⟨decompressing, _, rfl, by decide, rfl, by decide⟩

theorem witness_LengthIsNeverRead :
    (∃ t, exec .size (inPhase .size []) = .next t) ∧
      exec (.rawb 1) (inDecomp .old 0 [1]) = .fault .rawOutOfRange := ⟨⟨_, rfl⟩, rfl⟩

theorem witness_FaultRecordIsSticky :
    ∃ s u t v : State, s.phase = .fault ∧ s.pending = [] ∧ step s = .next t ∧
      u.phase = .fault ∧ u.pending = [.readReg 8] ∧ step u = .next v :=
  ⟨inPhase .fault [], { inPhase .fault [] with pending := [.readReg 8] }, _, _, rfl, rfl, rfl, rfl, rfl, rfl⟩

theorem witness_DecodeOfEncodeIsTheOperation : (Instr.run 0xFF 0x80).wellFormed = true := by decide

theorem witness_StepRunsTheDecodedOperation :
    ∃ s : State, s.pending = [] ∧ s.midToken = false ∧ s.selection = some .rle ∧
      decode .rle (s.input.drop s.ipos) = .ok (.lit 0x42) :=
  ⟨decompressing, rfl, by decide, by decide, by decide⟩

theorem witness_PhaseAndConfigurationSelect :
    (inPhase .magic []).phase = .magic ∧ (inDecomp .rgb 1 []).cfgType = .rgb ∧
      (inDecomp .byteEncoded 1 []).cfgType = .byteEncoded ∧ (inPhase .assemble []).phase = .assemble ∧
      (inPhase .idle []).phase = .idle := by decide

/-- The five clauses, each one byte short. -/
theorem witness_StreamEndInsideAnOperation :
    (inPhase .magic [1, 2, 3]).input.length = 3 ∧ (inPhase .header (List.replicate 27 0)).input.length = 27 ∧
      (inDecomp .old 1 []).input.drop 0 = [] ∧ (inDecomp .byteEncoded 1 [0x80, 1]).input.drop 0 = [0x80, 1] ∧
      { inDecomp .byteEncoded 1 [] with rstate := .rValue, rcount := 2 }.input.drop 0 = [] := by decide

/-- Exactly four bytes, the magic and another word, and three bytes. -/
theorem witness_MagicChecksFourBytes :
    (inPhase .magic [0x59, 0xA6, 0x6A, 0x95]).input.length = 4 ∧ (0x59A66A96 : Word) ≠ 0x59A66A95 ∧
      (inPhase .magic [0x59, 0xA6, 0x6A]).input.length = 3 := by decide

theorem witness_MagicPhaseComparesTheStream :
    (inPhase .magic [0x59, 0xA6, 0x6A, 0x95]).input.drop 0 = [0x59, 0xA6, 0x6A, 0x95] ++ [] ∧
      (inPhase .magic [0x58, 0xA6, 0x6A, 0x95]).input.drop 0 = [0x58, 0xA6, 0x6A, 0x95] ++ [] ∧
      ([0x58, 0xA6, 0x6A, 0x95] : List Byte) ≠ [0x59, 0xA6, 0x6A, 0x95] := by decide

theorem witness_HeaderWritesTheConfiguration :
    ∃ s : State, s.ipos + 28 ≤ s.input.length ∧ codesDistinct s.params = true ∧
      codeOfType s.params.typeCode .experimental = some 0xFFFF ∧ codeOfCmapType s.params.cmapCode .raw = some 2 :=
  ⟨inPhase .header (List.replicate 28 0), by decide, by decide, by decide, by decide⟩

theorem witness_BadEnumerationCodeFaults :
    ∃ s : State, s.ipos + 28 ≤ s.input.length ∧ (∀ ty, codeOfType s.params.typeCode ty ≠ some 6) ∧
      (∀ cm, codeOfCmapType s.params.cmapCode cm ≠ some 3) := by
  refine ⟨inPhase .header (List.replicate 28 0), by decide, fun ty => ?_, fun cm => ?_⟩
  · cases ty <;> decide
  · cases cm <;> decide

/-- The seven cases of R93, and a depth beside each legal one. -/
theorem witness_ResolveChoosesTheFormat :
    ∃ a b c d e f g u : State, (a.cfgDepth = 24 ∧ a.cfgType = .rgb) ∧ (b.cfgDepth = 24 ∧ b.cfgType ≠ .rgb) ∧
      c.cfgDepth = 32 ∧ (d.cfgDepth = 8 ∧ d.cfgCmapLength ≠ 0) ∧ (e.cfgDepth = 8 ∧ e.cfgCmapLength = 0) ∧
      (f.cfgDepth = 1 ∧ f.cfgCmapLength ≠ 0) ∧ (g.cfgDepth = 1 ∧ g.cfgCmapLength = 0) ∧
      (u.cfgDepth ≠ 1 ∧ u.cfgDepth ≠ 8 ∧ u.cfgDepth ≠ 24 ∧ u.cfgDepth ≠ 32) :=
  ⟨{ inPhase .resolve [] with cfgDepth := 24, cfgType := .rgb },
    { inPhase .resolve [] with cfgDepth := 24, cfgType := .tiff },
    { inPhase .resolve [] with cfgDepth := 32 }, { inPhase .resolve [] with cfgDepth := 8, cfgCmapLength := 1 },
    { inPhase .resolve [] with cfgDepth := 8 }, { inPhase .resolve [] with cfgDepth := 1, cfgCmapLength := 1 },
    { inPhase .resolve [] with cfgDepth := 1 }, { inPhase .resolve [] with cfgDepth := 0 },
    by decide, by decide, by decide, by decide, by decide, by decide, by decide, by decide⟩

/-- The longest map, and the shortest. -/
theorem witness_ColourMapLoadsThePlanes :
    ∃ s u : State, s.cfgCmapLength.toNat = 770 ∧ s.cfgCmapType = .rgb ∧ 770 / 3 ≤ 256 ∧
      s.ipos + 770 ≤ s.input.length ∧
      u.cfgCmapLength.toNat = 1 ∧ u.cfgCmapType = .rgb ∧ u.ipos + 1 ≤ u.input.length :=
  ⟨{ inPhase .cmap (List.replicate 770 0) with cfgCmapType := .rgb, cfgCmapLength := 770 },
    { inPhase .cmap [1] with cfgCmapType := .rgb, cfgCmapLength := 1 }, by decide, rfl, by decide,
    by show 770 ≤ (List.replicate 770 (0 : Byte)).length; rw [List.length_replicate], by decide, rfl, by decide⟩

theorem witness_ColourMapOtherCases :
    ∃ a b c d : State, a.cfgCmapType = .rgb ∧ a.cfgCmapLength = 0 ∧ b.cfgCmapType = .raw ∧
      c.cfgCmapType = .rgb ∧ 256 < c.cfgCmapLength.toNat / 3 ∧
      d.cfgCmapType = .rgb ∧ 0 < d.cfgCmapLength.toNat ∧ d.cfgCmapLength.toNat / 3 ≤ 256 ∧
        d.input.length < d.ipos + d.cfgCmapLength.toNat :=
  ⟨{ inPhase .cmap [] with cfgCmapType := .rgb }, { inPhase .cmap [] with cfgCmapType := .raw },
    { inPhase .cmap [] with cfgCmapType := .rgb, cfgCmapLength := 771 },
    { inPhase .cmap [1, 2, 3, 4, 5, 6, 7, 8] with cfgCmapType := .rgb, cfgCmapLength := 9 },
    rfl, rfl, rfl, rfl, by decide, rfl, by decide, by decide, by decide⟩

/-- Depth 1 at width 17 (V-SZ-6) and depth 24 (V-SZ-14), the capacities met exactly; depth 8 with one missed by one
(V-SZ-18). -/
theorem witness_SizeIsExactAndChecked :
    ∃ a b c : State,
      (a.cfgDepth = 1 ∧ a.cfgWidth.toNat = 17 ∧ 8 * 3 < 17 + 8 ∧ 17 ≤ 8 * 3 ∧ 4 = 3 + 3 % 2 ∧
        4 ≤ a.params.rawCapacity ∧ 17 ≤ a.params.pixCapacity) ∧
      (b.cfgDepth ≠ 1 ∧ 3 = max 1 (b.cfgDepth.toNat / 8) ∧ 18 = b.cfgWidth.toNat * b.cfgHeight.toNat * 3 ∧
        18 = b.params.rawCapacity ∧ b.cfgWidth.toNat * b.cfgHeight.toNat = b.params.pixCapacity) ∧
      (c.cfgDepth = 8 ∧ c.params.rawCapacity + 1 = c.cfgWidth.toNat * c.cfgHeight.toNat * 1) :=
  ⟨{ inPhase .size [] with cfgWidth := 17, cfgHeight := 1, cfgDepth := 1 },
    { inPhase .size [] with
      cfgWidth := 3, cfgHeight := 2, cfgDepth := 24
      params := { Config.paramsDefault with rawCapacity := 18, pixCapacity := 6 } },
    { inPhase .size [] with
      cfgWidth := 4, cfgHeight := 4, cfgDepth := 8
      params := { Config.paramsDefault with rawCapacity := 15, pixCapacity := 16 } },
    by decide, by decide, by decide⟩

theorem witness_DecompressionEntry :
    ∃ s t u v : State, s.pending = [] ∧ s.phase = .size ∧ exec .size s = .next u ∧ u.phase = .decomp ∧
      s.cfgType = .tiff ∧ u.rawSize = 0 ∧
      t.pending = [] ∧ t.phase = .size ∧ exec .size t = .next v ∧ v.phase = .decomp ∧ t.cfgType = .byteEncoded ∧
      v.rawSize ≠ 0 :=
  ⟨{ inPhase .size [] with cfgDepth := 8, cfgType := .tiff },
    { inPhase .size [] with cfgDepth := 8, cfgType := .byteEncoded, cfgWidth := 1, cfgHeight := 1 }, _, _,
    rfl, rfl, rfl, by decide, rfl, by decide, rfl, rfl, rfl, by decide, rfl, by decide⟩

/-- For `RAWB`, `LIT`, `ESC0` and `RUN`: the last bytes of the stream, the last place of `RAW`. -/
theorem witness_decompressor_operations :
    ∃ s : State, s.ipos + 3 ≤ s.input.length ∧ s.opos < s.rawSize ∧ s.opos + 1 = s.rawSize ∧ s.rstate = .rByte :=
  ⟨inDecomp .byteEncoded 1 [0x80, 2, 0x41], by decide, by decide, by decide, rfl⟩

/-- For the same four, the stream at its end. -/
theorem witness_decompressor_operations_at_the_end :
    ∃ s : State, s.input.length < s.ipos + 1 ∧ s.input.length < s.ipos + 2 ∧ s.input.length < s.ipos + 3 :=
  ⟨inDecomp .byteEncoded 1 [], by decide, by decide, by decide⟩

theorem witness_TokenStepIsTheByteLevelMachine :
    ∃ s u : State, s.phase = .decomp ∧ s.rstate = .rByte ∧ s.opos < s.rawSize ∧
      decode .rle (s.input.drop s.ipos) = .ok (.run 0xFF 0x41) ∧
      u.phase = .decomp ∧ u.rstate = .rByte ∧ u.opos < u.rawSize ∧
      decode .rle (u.input.drop u.ipos) = .error .streamEnd :=
  ⟨inDecomp .byteEncoded 1 [0x80, 0xFF, 0x41], inDecomp .byteEncoded 1 [0x80, 0xFF],
    rfl, rfl, by decide, by decide, rfl, rfl, by decide, by decide⟩

theorem witness_ByteLevelMachineFollowsItsTable :
    ∃ a b c d e : State, (a.opos < a.rawSize ∧ a.rstate = .rByte ∧ a.input[a.ipos]? = some 0x80) ∧
      (b.opos < b.rawSize ∧ b.rstate = .rCount ∧ b.input[b.ipos]? = some 0xFF) ∧
      (c.opos < c.rawSize ∧ c.rstate = .rValue ∧ c.input[c.ipos]? = some 0x80) ∧
      (d.opos < d.rawSize ∧ d.rstate = .rCount ∧ d.input[d.ipos]? = some 0) ∧
      (e.opos < e.rawSize ∧ e.rstate = .rRun ∧ e.rcount = 1) :=
  ⟨inDecomp .byteEncoded 1 [0x80], { inDecomp .byteEncoded 1 [0xFF] with rstate := .rCount },
    { inDecomp .byteEncoded 1 [0x80] with rstate := .rValue }, { inDecomp .byteEncoded 1 [0] with rstate := .rCount },
    { inDecomp .byteEncoded 2 [] with rstate := .rRun, rcount := 1 }, by decide, by decide, by decide, by decide,
    by decide⟩

/-- For `ASM.G1` and `ASM.IDX1`: 9 columns in rows of two bytes. -/
theorem witness_bit_assembly :
    ∃ s : State, readyToAssemble s ∧ s.cfgWidth.toNat ≤ 8 * s.rowBytes ∧
      s.rawSize = s.rowBytes * s.cfgHeight.toNat ∧ 0 < s.pixCount :=
  ⟨inAssemble 9 2 1 .old .indexed8 [0xB0, 0x80, 0x01, 0x00], by decide, by decide, by decide, by decide⟩

/-- For `ASM.G8` and `ASM.IDX8`. -/
theorem witness_byte_assembly : ∃ s : State, readyToAssemble s ∧ s.rawSize = s.pixCount ∧ 0 < s.pixCount :=
  ⟨inAssemble 3 1 8 .old .grayscale8 [1, 2, 3], by decide, by decide, by decide⟩

/-- For `ASM.RGB24` and `ASM.BGR24`. -/
theorem witness_triple_assembly : ∃ s : State, readyToAssemble s ∧ s.rawSize = 3 * s.pixCount ∧ 0 < s.pixCount :=
  ⟨inAssemble 1 1 24 .rgb .rgb24 [1, 2, 3], by decide, by decide, by decide⟩

theorem witness_RgbaChannelsFollowTheType :
    ∃ s : State, readyToAssemble s ∧ s.rawSize = 4 * s.pixCount ∧ 0 < s.pixCount ∧ s.cfgType = .rgb :=
  ⟨inAssemble 1 1 32 .rgb .rgba32 [0, 1, 2, 3], by decide, by decide, by decide, rfl⟩

theorem witness_ByteViewEqualsRaw :
    ∃ s t : State, readyToAssemble s ∧ s.rawSize = 3 * s.pixCount ∧ exec .asmBgr24 s = .next t ∧ 0 < s.pixCount :=
  ⟨inAssemble 1 1 24 .old .bgr24 [1, 2, 3], _, by decide, by decide, rfl, by decide⟩

/-- Codes 1, 2 and 0, upper bits set. -/
theorem witness_CommandsAreAccepted :
    ∃ s u w : State, (s.pending = [.writeReg 15 0xFFFFFFFD] ∧ s.busy = false ∧ (0xFFFFFFFD : Word).toNat % 4 = 1) ∧
      (u.pending = [.writeReg 15 0xFFFFFFFE] ∧ u.busy = false ∧ (0xFFFFFFFE : Word).toNat % 4 = 2) ∧
      (w.pending = [.writeReg 15 0xFFFFFFFC] ∧ w.busy = false ∧ (0xFFFFFFFC : Word).toNat % 4 = 0) :=
  ⟨{ completed with pending := [.writeReg 15 0xFFFFFFFD] }, { faulted with pending := [.writeReg 15 0xFFFFFFFE] },
    { completed with pending := [.writeReg 15 0xFFFFFFFC] }, ⟨rfl, rfl, by decide⟩, ⟨rfl, rfl, by decide⟩,
    ⟨rfl, rfl, by decide⟩⟩

theorem witness_OtherWritesAreIgnored :
    ∃ s u w : State, (s.pending = [.writeReg 0 1] ∧ s.busy = true) ∧ u.pending = [.writeReg 14 1] ∧
      (w.pending = [.writeReg 15 3] ∧ (3 : Word).toNat % 4 = 3) :=
  ⟨{ decompressing with pending := [.writeReg 0 1] }, { completed with pending := [.writeReg 14 1] },
    { completed with pending := [.writeReg 15 3] }, by decide, rfl, by decide⟩

/-- The first and last register, and the highest code of the two enumerations under upper bits. -/
theorem witness_ConfigurationWritesReadBack :
    ∃ a b c d : State, (a.pending = [.writeReg 0 0xFFFFFFFF] ∧ a.busy = false) ∧
      (b.pending = [.writeReg 4 0xFFFFFFFF] ∧ b.busy = false ∧ (0xFFFFFFFF : Word).toNat % 8 = 7) ∧
      (c.pending = [.writeReg 5 0xFFFFFFFF] ∧ c.busy = false ∧ (0xFFFFFFFF : Word).toNat % 4 = 3) ∧
      (d.pending = [.writeReg 6 0xFFFFFFFF] ∧ d.busy = false ∧ (6 : BitVec 4).toNat ≤ 6) :=
  ⟨{ completed with pending := [.writeReg 0 0xFFFFFFFF] }, { completed with pending := [.writeReg 4 0xFFFFFFFF] },
    { completed with pending := [.writeReg 5 0xFFFFFFFF] }, { completed with pending := [.writeReg 6 0xFFFFFFFF] },
    ⟨rfl, rfl⟩, ⟨rfl, rfl, by decide⟩, ⟨rfl, rfl, by decide⟩, ⟨rfl, rfl, by decide⟩⟩

theorem witness_FaultInfoWordBits : faulted.faultKind = .resource ∧ faulted.faultCause = .capacityExceeded := ⟨rfl, rfl⟩

/-- The last entry there is, and the first there is not. -/
theorem witness_PaletteReadsAreAdmittedOnlyWhenValid :
    ∃ s u : State, Inv s ∧ s.pending = [.readPal 0] ∧ s.pixValid = true ∧ 0 < s.palCount.toNat ∧
      Inv u ∧ u.pending = [.readPal 1] ∧ ¬ 1 < u.palCount.toNat :=
  ⟨{ completed with pending := [.readPal 0] }, { completed with pending := [.readPal 1] },
    inv_pending witness_inv_completed _, rfl, rfl, by decide, inv_pending witness_inv_completed _, rfl, by decide⟩

theorem witness_PixelReadsAreAdmittedOnlyWhenValid :
    ∃ s u f : State, Inv s ∧ s.pending = [.readPix 1] ∧ s.pixValid = true ∧ 1 < s.pixCount ∧
      Inv u ∧ u.pending = [.readPix 2] ∧ ¬ 2 < u.pixCount ∧
      Inv f ∧ f.phase = .fault ∧ f.pending = [.readPix 0] :=
  ⟨{ completed with pending := [.readPix 1] }, { completed with pending := [.readPix 2] },
    { faulted with pending := [.readPix 0] }, inv_pending witness_inv_completed _, rfl, rfl, by decide,
    inv_pending witness_inv_completed _, rfl, by decide, inv_pending witness_inv_faulted _, rfl, rfl⟩

/-- At rest, and in each phase that pulls, with a byte left that the close takes away; the longest colour map. -/
theorem witness_ClosedStreamSurfacesAsStreamEnd :
    (∃ s : State, s.pending = .close :: [.readReg 7] ∧ s.phase = .idle) ∧
      ∃ a b c d e f g : State,
        (a.pending = [.close] ∧ a.phase = .magic) ∧ (b.pending = [.close] ∧ b.phase = .header) ∧
        (c.pending = [.close] ∧ c.phase = .cmap ∧ c.cfgCmapType = .rgb ∧ 0 < c.cfgCmapLength.toNat ∧
          c.cfgCmapLength.toNat = 770) ∧
        (d.pending = [.close] ∧ d.phase = .decomp ∧ d.cfgType = .rgb) ∧
        (e.pending = [.close] ∧ e.phase = .decomp ∧ e.cfgType = .byteEncoded ∧ e.rstate = .rByte) ∧
        (f.pending = [.close] ∧ f.phase = .decomp ∧ f.cfgType = .byteEncoded ∧ f.rstate = .rCount) ∧
        (g.pending = [.close] ∧ g.phase = .decomp ∧ g.cfgType = .byteEncoded ∧ g.rstate = .rValue) :=
  ⟨⟨{ inPhase .idle [1] with pending := [.close, .readReg 7] }, rfl, rfl⟩,
    { inPhase .magic [0x59] with pending := [.close] }, { inPhase .header [0] with pending := [.close] },
    { inPhase .cmap [0] with pending := [.close], cfgCmapType := .rgb, cfgCmapLength := 770 },
    { inDecomp .rgb 1 [0] with pending := [.close] }, { inDecomp .byteEncoded 1 [0] with pending := [.close] },
    { inDecomp .byteEncoded 1 [0] with pending := [.close], rstate := .rCount },
    { inDecomp .byteEncoded 1 [0] with pending := [.close], rstate := .rValue },
    ⟨rfl, rfl⟩, ⟨rfl, rfl⟩, ⟨rfl, rfl, rfl, by decide, by decide⟩, ⟨rfl, rfl, rfl⟩, ⟨rfl, rfl, rfl, rfl⟩,
    ⟨rfl, rfl, rfl, rfl⟩, ⟨rfl, rfl, rfl, rfl⟩⟩

/-- At rest and busy. -/
theorem witness_AttachedStreamComesNext :
    ∃ s u : State, (s.pending = [.attach [1, 2]] ∧ s.busy = false) ∧ (u.pending = [.attach [1, 2]] ∧ u.busy = true) :=
  ⟨{ completed with pending := [.attach [1, 2]] }, { decompressing with pending := [.attach [1, 2]] },
    ⟨rfl, rfl⟩, ⟨rfl, rfl⟩⟩

/-- A valid result, a fault, the states in which a register is not written yet, and the highest code of each
enumeration. -/
theorem witness_RegisterReadsAnswerTheMap :
    ∃ a b c d e f : State, (a.phase = .done ∧ a.pixValid = true ∧ a.fmt = .rgba32) ∧ b.phase = .fault ∧
      (c.cfgType = .code7 ∧ c.cfgCmapType = .code3) ∧ d.phase = .resolve ∧ e.phase = .cmap ∧
      (f.phase = .done ∧ f.pixValid = false) :=
  ⟨{ completed with fmt := .rgba32 }, faulted, { completed with cfgType := .code7, cfgCmapType := .code3 },
    inPhase .resolve [], inPhase .cmap [], { inPhase .done [] with done := true },
    ⟨rfl, rfl, rfl⟩, rfl, ⟨rfl, rfl⟩, rfl, rfl, ⟨rfl, rfl⟩⟩

/-- The registers where the clauses meet: 8, 9, 12 and 13 after a fault, 9 to 12 of a result, 15, and 9 to 11 before the
command has written them. -/
theorem witness_RegisterReadsChangeNothing :
    (∃ a b c d e f : State, (a.pending = [.readReg 8] ∧ a.phase = .fault) ∧
      (b.pending = [.readReg 13] ∧ b.phase = .fault) ∧ (c.pending = [.readReg 12] ∧ c.phase ≠ .fault) ∧
      d.pending = [.readReg 15] ∧
      (e.pending = [.readReg 9] ∧ e.phase = .fault) ∧ (f.pending = [.readReg 12] ∧ f.phase = .fault)) ∧
    ∃ g h i j : State, (g.pending = [.readReg 9] ∧ g.phase = .cmap) ∧
      (h.pending = [.readReg 11] ∧ h.phase = .done ∧ h.pixValid = true) ∧
      (i.pending = [.readReg 9] ∧ i.phase = .resolve) ∧
      (j.pending = [.readReg 10] ∧ j.phase = .done ∧ j.pixValid = false) :=
  ⟨⟨{ faulted with pending := [.readReg 8] }, { faulted with pending := [.readReg 13] },
      { completed with pending := [.readReg 12] }, { completed with pending := [.readReg 15] },
      { faulted with pending := [.readReg 9] }, { faulted with pending := [.readReg 12] },
      ⟨rfl, rfl⟩, ⟨rfl, rfl⟩, ⟨rfl, by decide⟩, rfl, ⟨rfl, rfl⟩, ⟨rfl, rfl⟩⟩,
    { inPhase .cmap [] with pending := [.readReg 9] }, { completed with pending := [.readReg 11] },
    { inPhase .resolve [] with pending := [.readReg 9] },
    { inPhase .done [] with done := true, pending := [.readReg 10] },
    ⟨rfl, rfl⟩, ⟨rfl, rfl, rfl⟩, ⟨rfl, rfl⟩, ⟨rfl, rfl, rfl⟩⟩

end Sys2Proof.Tests
end

section
/-! PROOFS. What a step of the sequencer can do, said once: one inductive relation with a constructor for each way a
step can end. Every fact about "all steps" is a case analysis on it. -/

namespace Sys2Proof.Machine

/-! ### Moves of the sequencer -/

/-- R122: a run under way has 1 to 256 bytes left. -/
abbrev State.runLeft (s : State) : Prop :=
  s.rstate = .rValue ∨ s.rstate = .rRun → 1 ≤ s.rcount.toNat ∧ s.rcount.toNat ≤ 256

/-- What an operation of `DECOMP`, or one transition of the byte-level machine, can do when it takes no fault; the entry
to the next phase is not part of it. -/
structure DecompMove (s t : State) : Prop where
  frame : t =
    { s with
      ipos := t.ipos, opos := t.opos, raw := t.raw, rcount := t.rcount, rvalue := t.rvalue, rstate := t.rstate
      phase := t.phase }
  forward : s.ipos ≤ t.ipos
  within : s.ipos ≤ s.input.length → t.ipos ≤ s.input.length
  leaves : (t.phase = s.phase ∧ (t.opos = s.opos ∨ t.opos < s.rawSize)) ∨ (t.phase = .assemble ∧ t.opos = s.rawSize)
  wf : Memory.wf s.raw = true → Memory.wf t.raw = true
  dense : Memory.dense s.raw s.opos → Memory.dense t.raw t.opos
  run : s.runLeft → t.runLeft
  rawCopy : s.rstate = .rByte → RasType.decompMode s.cfgType = some .rawCopy → t.rstate = .rByte

/-- The registers that `SIZE` writes (R95). -/
def State.sized (s : State) : State :=
  { s with
    bpp := BitVec.ofNat 3 (bytesPerPixel s.cfgDepth.toNat)
    rowBytes := rowBytesOf s.cfgWidth.toNat s.cfgDepth.toNat
    rawSize := rawSizeOf s.cfgWidth.toNat s.cfgHeight.toNat s.cfgDepth.toNat
    pixCount := s.cfgWidth.toNat * s.cfgHeight.toNat }

/-- The sizes fit the capacities and the type is supported: `SIZE` goes on (R95, R120). -/
structure State.SizeFits (s : State) : Prop where
  raw : s.sized.rawSize ≤ s.params.rawCapacity
  pix : s.sized.pixCount ≤ s.params.pixCapacity
  mode : RasType.decompMode s.cfgType ≠ none

/-- The registers that the entry to `DECOMP` writes (R120). -/
def State.started (s : State) : State :=
  { s with
    opos := 0
    rstate := .rByte
    rcount := (Config.releasedRegs s.freeCount).rcount
    rvalue := (Config.releasedRegs s.freeCount).rvalue
    freeCount := s.freeCount + 1 }

/-- Every element below `PIX_COUNT` is there and tagged with `FMT` (R31, R79). -/
abbrev State.tagged (s : State) (m : Memory Pixel) : Prop :=
  ∀ p, p < s.pixCount → (Memory.read m p).map Pixel.format = some s.fmt

/-- How a step of the sequencer can end (R20, R90 to R96, R120 to R125, R150 to R158, R191). -/
inductive SeqMove (s : State) : State → Prop where
  | rest : Phase.isBusy s.phase = false → SeqMove s s
  | fault (i : Nat) (c : FaultCause) : Phase.isBusy s.phase = true → s.phase ≠ .assemble → c ≠ .none →
      (s.ipos ≤ s.input.length → i ≤ s.input.length) → SeqMove s (({ s with ipos := i } : State).raise c)
  | badEnum (width height depth length cmapLength : Word) : s.phase = .header → s.ipos + 28 ≤ s.input.length →
      SeqMove s
        (({ s with
            ipos := s.ipos + 28, cfgWidth := width, cfgHeight := height, cfgDepth := depth, cfgLength := length
            cfgCmapLength := cmapLength } : State).raise .badEnumCode)
  | magic : s.phase = .magic → s.ipos + 4 ≤ s.input.length →
      SeqMove s { s with ipos := s.ipos + 4, phase := .header }
  | header (width height depth length cmapLength : Word) (ty : RasType) (cm : CmapType) : s.phase = .header →
      s.ipos + 28 ≤ s.input.length →
      SeqMove s
        { s with
          ipos := s.ipos + 28, cfgWidth := width, cfgHeight := height, cfgDepth := depth, cfgLength := length
          cfgType := ty, cfgCmapType := cm, cfgCmapLength := cmapLength, phase := .resolve }
  | resolve (f : PixelFormat) : s.phase = .resolve →
      resolveFormat s.cfgDepth s.cfgType (decide (0 < s.cfgCmapLength.toNat)) = some f →
      SeqMove s
        { s with palPresent := decide (0 < s.cfgCmapLength.toNat), fmt := f, phase := .cmap, cidx := 0 }
  | cmapNone : s.phase = .cmap → SeqMove s { s with phase := .size }
  | cmapLoad (entries : List PalEntry) (i cidx : Nat) : s.phase = .cmap → entries.length ≤ Config.palCapacity →
      s.ipos ≤ i → i ≤ s.input.length →
      SeqMove s
        { s with
          ipos := i, cidx := cidx, pal := Memory.writeAll s.pal 0 entries
          palCount := BitVec.ofNat 9 entries.length, phase := .size }
  | sizeEmpty : s.phase = .size → s.SizeFits → s.sized.rawSize = 0 → SeqMove s s.sized.started.enterAssemble
  | size : s.phase = .size → s.SizeFits → s.sized.rawSize ≠ 0 → SeqMove s { s.sized.started with phase := .decomp }
  | decomp (t : State) : s.phase = .decomp → DecompMove s t → t.phase = .decomp → SeqMove s t
  | decompLast (t : State) : s.phase = .decomp → DecompMove s t → t.phase = .assemble → SeqMove s t.enterAssemble
  | assemble (m : Memory Pixel) (a b : Nat) : s.phase = .assemble → (Memory.wf s.pix = true → Memory.wf m = true) →
      (s.ax = 0 → s.ay = 0 → s.pixCount = s.cfgWidth.toNat * s.cfgHeight.toNat → s.tagged m) →
      SeqMove s ({ s with pix := m, ax := a, ay := b } : State).complete

/-- A stream end in any phase but `ASSEMBLE`. -/
theorem SeqMove.streamEnd {s : State} (hb : Phase.isBusy s.phase = true) (ha : s.phase ≠ .assemble) :
    SeqMove s s.raiseStreamEnd :=
  .fault (max s.ipos s.input.length) .streamEnd hb ha (by decide) (by omega)

/-! ### The entry to the next phase -/

/-- The state with the entry to its phase, where that is not the phase `p` of before. -/
def State.entered (s : State) (p : Phase) : State := if s.phase = p then s else s.enter

/-- The entry to the next phase goes on from a next state only. -/
theorem enterPhase_next {p : Phase} {o : Out} {t : State} (h : enterPhase p o = .next t) :
    ∃ u, o = .next u ∧ u.entered p = t := by
  cases o with
  | next u => exact ⟨u, rfl, by cases h; rfl⟩
  | fault f => cases h
  | refused r => cases h

theorem State.entered_of_eq {s : State} {p : Phase} (h : s.phase = p) : s.entered p = s := if_pos h

theorem State.entered_of_ne {s : State} {p : Phase} (h : s.phase ≠ p) : s.entered p = s.enter := if_neg h

@[simp] theorem State.entered_raise (s : State) (c : FaultCause) (p : Phase) : (s.raise c).entered p = s.raise c := by
  unfold State.entered
  split <;> rfl

@[simp] theorem State.entered_raiseStreamEnd (s : State) (p : Phase) :
    s.raiseStreamEnd.entered p = s.raiseStreamEnd := State.entered_raise _ _ _

/-- What the entry to `DECOMP` can do (R120). -/
theorem State.enterDecomp_cases (s : State) :
    (RasType.decompMode s.cfgType = none ∧ s.enterDecomp = s.raise .unsupportedType) ∨
      (RasType.decompMode s.cfgType ≠ none ∧ s.rawSize = 0 ∧ s.enterDecomp = s.started.enterAssemble) ∨
      (RasType.decompMode s.cfgType ≠ none ∧ s.rawSize ≠ 0 ∧ s.enterDecomp = s.started) := by
  unfold State.enterDecomp
  cases hm : RasType.decompMode s.cfgType with
  | none => simp
  | some m => by_cases h0 : s.rawSize = 0 <;> simp [h0, State.started]

/-- An operation that leaves the phase is followed by the entry to the next. -/
theorem SeqMove.ofEnter {s u : State} (hp : u.phase ≠ s.phase) (h : SeqMove s u.enter) :
    SeqMove s (u.entered s.phase) := by
  rwa [State.entered_of_ne hp]

/-- A fault in any phase but `ASSEMBLE`, the stream position as it was. -/
theorem SeqMove.ofRaise {s : State} (c : FaultCause) (hb : Phase.isBusy s.phase = true) (ha : s.phase ≠ .assemble)
    (hc : c ≠ .none) : SeqMove s (s.raise c) :=
  .fault s.ipos c hb ha hc id

/-! ### The front end -/

theorem execMagic_move {s t : State} {w : Word} (hp : s.phase = .magic)
    (h : enterPhase s.phase (execMagic w s) = .next t) : SeqMove s t := by
  obtain ⟨u, hu, rfl⟩ := enterPhase_next h
  have hb : Phase.isBusy s.phase = true := by rw [hp]; rfl
  have ha : s.phase ≠ .assemble := by rw [hp]; decide
  obtain ⟨-, rfl⟩ | ⟨hl, hk⟩ := consume_next hu
  · simpa using SeqMove.streamEnd hb ha
  · split at hk <;> cases hk
    · exact .ofEnter (by simp [hp]) (.magic hp hl)
    · simpa using SeqMove.fault (s.ipos + 4) .badMagic hb ha (by decide) (fun _ => hl)

theorem execHdr_move {s t : State} {width height depth length type cmapType cmapLength : Word}
    (hp : s.phase = .header)
    (h : enterPhase s.phase (execHdr width height depth length type cmapType cmapLength s) = .next t) :
    SeqMove s t := by
  obtain ⟨u, hu, rfl⟩ := enterPhase_next h
  obtain ⟨-, rfl⟩ | ⟨hl, hk⟩ := consume_next hu
  · simpa using SeqMove.streamEnd (by rw [hp]; rfl) (by rw [hp]; decide)
  · dsimp only at hk
    split at hk <;> cases hk
    · rename_i ty cm _ _
      exact .ofEnter (by simp [hp]) (.header width height depth length cmapLength ty cm hp hl)
    · rw [State.entered_raise]
      exact .badEnum width height depth length cmapLength hp hl

theorem execResolve_move {s t : State} (hp : s.phase = .resolve)
    (h : enterPhase s.phase (execResolve s) = .next t) : SeqMove s t := by
  obtain ⟨u, hu, rfl⟩ := enterPhase_next h
  unfold execResolve at hu
  dsimp only at hu
  split at hu <;> cases hu
  · rename_i f hf
    exact .ofEnter (by simp [hp]) (.resolve f hp hf)
  · rw [State.entered_raise]
    exact .ofRaise .unsupportedDepth (by rw [hp]; rfl) (by rw [hp]; decide) (by decide)

/-- The load of a colour map whose entries fit (R94). -/
theorem loadPalette_move {s u : State} {n : Nat} (hp : s.phase = .cmap) (hn : n ≤ Config.palCapacity)
    (h : s.loadPalette n = .next u) : SeqMove s (u.entered s.phase) := by
  unfold State.loadPalette at h
  obtain ⟨-, rfl⟩ | ⟨hl, hk⟩ := consume_next h
  · simpa using SeqMove.streamEnd (by rw [hp]; rfl) (by rw [hp]; decide)
  · cases hk
    have hlen : (paletteEntries (s.remaining.take s.cfgCmapLength.toNat) n).length = n := by simp [paletteEntries]
    refine .ofEnter (by simp [hp]) ?_
    have hm := SeqMove.cmapLoad (paletteEntries (s.remaining.take s.cfgCmapLength.toNat) n)
      (s.ipos + s.cfgCmapLength.toNat) (s.cfgCmapLength.toNat - 1) hp (by omega) (by omega) hl
    rwa [hlen] at hm

theorem execCmap_move {s t : State} (hp : s.phase = .cmap)
    (h : enterPhase s.phase (execCmap s) = .next t) : SeqMove s t := by
  obtain ⟨u, hu, rfl⟩ := enterPhase_next h
  have hfault (c : FaultCause) (hc : c ≠ .none) : SeqMove s (s.raise c) :=
    .ofRaise c (by rw [hp]; rfl) (by rw [hp]; decide) hc
  have hskip : SeqMove s (({ s with phase := .size } : State).entered s.phase) :=
    .ofEnter (by simp [hp]) (.cmapNone hp)
  unfold execCmap at hu
  split at hu
  · split at hu
    · split at hu
      · cases hu
        simpa using hfault .paletteOverflow (by decide)
      · exact loadPalette_move hp (by omega) hu
    · cases hu
      exact hskip
  · cases hu
    exact hskip
  · cases hu
    simpa using hfault .unsupportedColorMap (by decide)
  · cases hu
    simpa using hfault .unsupportedColorMap (by decide)

theorem execSize_move {s t : State} (hp : s.phase = .size)
    (h : enterPhase s.phase (execSize s) = .next t) : SeqMove s t := by
  obtain ⟨u, hu, rfl⟩ := enterPhase_next h
  have hfault (c : FaultCause) (hc : c ≠ .none) : SeqMove s (s.raise c) :=
    .ofRaise c (by rw [hp]; rfl) (by rw [hp]; decide) hc
  unfold execSize at hu
  dsimp only at hu
  split at hu
  · cases hu
    rw [State.entered_raise]
    exact hfault .capacityExceeded (by decide)
  · rename_i hcap
    obtain ⟨hraw, hpix⟩ := not_or.mp hcap
    cases hu
    refine .ofEnter (by simp [hp]) ?_
    show SeqMove s ({ s.sized with phase := .decomp } : State).enterDecomp
    obtain ⟨-, h1⟩ | ⟨hm, h0, h1⟩ | ⟨hm, h0, h1⟩ :=
      State.enterDecomp_cases { s.sized with phase := .decomp } <;> rw [h1]
    · exact hfault .unsupportedType (by decide)
    · exact .sizeEmpty hp ⟨Nat.not_lt.mp hraw, Nat.not_lt.mp hpix, hm⟩ h0
    · exact .size hp ⟨Nat.not_lt.mp hraw, Nat.not_lt.mp hpix, hm⟩ h0

/-! ### The decompressor -/

/-- One byte emitted, after the stream position has moved: the shape that every emitting operation has (R122). -/
theorem DecompMove.emit {s : State} {i : Nat} (v : Byte) (rc : BitVec 9) (rs : RState) (hf : s.ipos ≤ i)
    (hw : s.ipos ≤ s.input.length → i ≤ s.input.length) (hroom : s.opos < s.rawSize)
    (hrun : s.runLeft → rs = .rValue ∨ rs = .rRun → 1 ≤ rc.toNat ∧ rc.toNat ≤ 256)
    (hrs : s.rstate = .rByte → RasType.decompMode s.cfgType = some .rawCopy → rs = .rByte) :
    DecompMove s
      { s with
        ipos := i, raw := Memory.write s.raw s.opos v, opos := s.opos + 1, rcount := rc, rstate := rs
        phase := if s.opos + 1 = s.rawSize then .assemble else s.phase } where
  frame := rfl
  forward := hf
  within := hw
  leaves := by
    by_cases h : s.opos + 1 = s.rawSize
    · exact .inr ⟨if_pos h, h⟩
    · exact .inl ⟨if_neg h, .inr (by show s.opos + 1 < s.rawSize; omega)⟩
  wf := Memory.wf_write _ _
  dense := fun h => Memory.dense_write h v
  run := hrun
  rawCopy := hrs

/-- A step of `DECOMP` either ends at a fault of the stream or makes such a move, and enters `ASSEMBLE` with a full
`RAW`. -/
theorem DecompMove.toSeqMove {s u : State} (hp : s.phase = .decomp) (h : u = s.raiseStreamEnd ∨ DecompMove s u) :
    SeqMove s (u.entered s.phase) := by
  obtain rfl | hd := h
  · simpa using SeqMove.streamEnd (by rw [hp]; rfl) (by rw [hp]; decide)
  · obtain ⟨hq, -⟩ | ⟨hq, -⟩ := hd.leaves
    · rw [State.entered_of_eq hq]
      exact .decomp u hp hd (hq.trans hp)
    · have he : u.entered s.phase = u.enterAssemble := by
        rw [State.entered_of_ne (by rw [hp, hq]; decide), State.enter, hq]
      rw [he]
      exact .decompLast u hp hd hq

theorem execRawb_next {s u : State} {b : Byte} (h : execRawb b s = .next u) :
    u = s.raiseStreamEnd ∨ DecompMove s u := by
  obtain ⟨-, hu⟩ | ⟨hl, hk⟩ := consume_next h
  · exact .inl hu
  · obtain ⟨hroom, hk⟩ := emit_next hk
    have hd : DecompMove s _ := .emit b s.rcount s.rstate (Nat.le_add_right _ 1) (fun _ => hl) hroom id (fun h _ => h)
    refine .inr ?_
    dsimp only at hk
    split at hk <;> rename_i hfull <;> cases hk <;> simpa [hfull] using hd

/-- Emitting one byte as a whole token ends at a token start (R123, R124). -/
theorem emit_afterToken_next {s u : State} {n : Nat} {v : Byte}
    (h : (s.consume n fun s => s.emit v fun s => .next s.afterToken) = .next u) :
    u = s.raiseStreamEnd ∨ DecompMove s u := by
  obtain ⟨-, hu⟩ | ⟨hl, hk⟩ := consume_next h
  · exact .inl hu
  · obtain ⟨hroom, hk⟩ := emit_next hk
    cases hk
    rw [afterToken_eq]
    exact .inr (.emit v s.rcount .rByte (Nat.le_add_right _ n) (fun _ => hl) hroom (by simp) (fun _ _ => rfl))

theorem execRun_next {s u : State} {c v : Byte} (h : execRun c v s = .next u) :
    u = s.raiseStreamEnd ∨ DecompMove s u := by
  obtain ⟨-, hu⟩ | ⟨hl, hk⟩ := consume_next h
  · exact .inl hu
  · dsimp only at hk
    have hpos : 0 < (runCount c).toNat := by rw [runCount_toNat]; omega
    by_cases hroom : s.opos < s.rawSize
    · obtain ⟨m, he, hwf, hdense, -⟩ := emitRun_eq _ { s with ipos := s.ipos + 3, rcount := runCount c, rvalue := v }
        hpos hroom
      rw [he] at hk
      cases hk
      refine .inr ⟨rfl, Nat.le_add_right _ 3, fun _ => hl, ?_, hwf, hdense, by simp, fun _ _ => rfl⟩
      by_cases hfull : s.opos + min (runCount c).toNat (s.rawSize - s.opos) = s.rawSize
      · exact .inr ⟨if_pos hfull, hfull⟩
      · refine .inl ⟨if_neg hfull, .inr ?_⟩
        show s.opos + min (runCount c).toNat (s.rawSize - s.opos) < s.rawSize
        omega
    · obtain ⟨k, hk'⟩ := Nat.exists_eq_succ_of_ne_zero hpos.ne'
      rw [hk', emitRun] at hk
      exact absurd (emit_next hk).1 hroom

/-- A pull that emits nothing moves the stream position and the registers of the run only (R122). -/
theorem DecompMove.pull {s : State} (b : Byte) (rc : BitVec 9) (rv : Byte) (rs : RState)
    (hb : s.input[s.ipos]? = some b)
    (hrun : s.runLeft → rs = .rValue ∨ rs = .rRun → 1 ≤ rc.toNat ∧ rc.toNat ≤ 256)
    (hmode : s.rstate = .rByte → RasType.decompMode s.cfgType = some .rawCopy → rs = .rByte) :
    DecompMove s { s with ipos := s.ipos + 1, rcount := rc, rvalue := rv, rstate := rs } where
  frame := rfl
  forward := Nat.le_add_right _ 1
  within := fun _ => (List.getElem?_eq_some_iff.mp hb).1
  leaves := .inl ⟨rfl, .inl rfl⟩
  wf := id
  dense := id
  run := hrun
  rawCopy := hmode

end Sys2Proof.Machine
end

section
/-! PROOFS. The moves of the byte-level machine, of the assembler and of the dispatch; every step of the sequencer makes
one of the moves. -/

namespace Sys2Proof.Machine

/-- One transition of the byte-level machine ends at a fault of the stream or makes a move of `DECOMP` (R122). In raw
copy there is none. -/
theorem rleTransition_next {s u : State} (hmode : RasType.decompMode s.cfgType ≠ some .rawCopy)
    (h : rleTransition s = .next u) : u = s.raiseStreamEnd ∨ DecompMove s u := by
  have hraw {rs : RState} (_ : s.rstate = .rByte) (hm : RasType.decompMode s.cfgType = some .rawCopy) : rs = .rByte :=
    absurd hm hmode
  have hpulled {b : Byte} (hb : s.input[s.ipos]? = some b) : s.ipos + 1 ≤ s.input.length :=
    (List.getElem?_eq_some_iff.mp hb).1
  unfold rleTransition at h
  split at h
  case h_1 =>
    obtain ⟨-, hu⟩ | ⟨b, hb, hk⟩ := pull_next h
    · exact .inl hu
    refine .inr ?_
    split at hk
    · cases hk
      exact .pull b s.rcount s.rvalue .rCount hb (by simp) hraw
    · obtain ⟨hroom, hk⟩ := emit_next hk
      cases hk
      rw [afterToken_eq]
      exact .emit b s.rcount .rByte (Nat.le_add_right _ 1) (fun _ => hpulled hb) hroom (by simp) hraw
  case h_2 =>
    obtain ⟨-, hu⟩ | ⟨c, hc, hk⟩ := pull_next h
    · exact .inl hu
    refine .inr ?_
    split at hk
    · obtain ⟨hroom, hk⟩ := emit_next hk
      cases hk
      rw [afterToken_eq]
      exact .emit _ s.rcount .rByte (Nat.le_add_right _ 1) (fun _ => hpulled hc) hroom (by simp) hraw
    · cases hk
      have := c.isLt
      exact .pull c (runCount c) s.rvalue .rValue hc (fun _ _ => by rw [runCount_toNat]; omega) hraw
  case h_3 hrs =>
    obtain ⟨-, hu⟩ | ⟨b, hb, hk⟩ := pull_next h
    · exact .inl hu
    cases hk
    exact .inr (.pull b s.rcount b .rRun hb (fun hr _ => hr (.inl hrs)) hraw)
  case h_4 hrs =>
    obtain ⟨hroom, hk⟩ := emit_next h
    have hd (rs : RState) (hrun : s.runLeft → rs = .rValue ∨ rs = .rRun →
        1 ≤ (s.rcount - 1).toNat ∧ (s.rcount - 1).toNat ≤ 256) : DecompMove s _ :=
      .emit s.rvalue (s.rcount - 1) rs le_rfl id hroom hrun hraw
    refine .inr ?_
    dsimp only at hk
    split at hk
    · rename_i hfull
      cases hk
      rw [afterToken_eq]
      exact hd .rByte (by simp)
    · rename_i hroom'
      split at hk <;> rename_i hzero <;> cases hk
      · simpa [hroom'] using hd .rByte (by simp)
      · have hleft (hr : s.runLeft) : 1 ≤ (s.rcount - 1).toNat ∧ (s.rcount - 1).toNat ≤ 256 := by
          obtain ⟨h1, h2⟩ := hr (.inr hrs)
          have hne : (s.rcount - 1).toNat ≠ 0 := fun h0 => hzero (BitVec.eq_of_toNat_eq h0)
          have : (s.rcount - 1).toNat = s.rcount.toNat - 1 := by
            rw [BitVec.toNat_sub]
            show (512 - 1 + s.rcount.toNat) % 512 = _
            omega
          omega
        simpa [hroom', hrs] using hd .rRun (fun hr _ => hleft hr)

/-! ### The assembler -/

/-- Every element that an assembly operation makes is tagged with the format. -/
def Element.tags (elem : Element) (f : PixelFormat) : Prop :=
  ∀ s y x e, elem s y x = .ok e → Pixel.format e = f

/-- A bind of the element monad that answers has an answer on its left. -/
theorem bind_eq_ok {α β : Type} {a : Except Fault α} {k : α → Except Fault β} {b : β} (h : (a >>= k) = .ok b) :
    ∃ x, a = .ok x ∧ k x = .ok b := by
  cases a with
  | error f => cases h
  | ok x => exact ⟨x, rfl, h⟩

theorem elementG1_tags : elementG1.tags .grayscale1 := by
  intro s y x e h
  obtain ⟨bit, -, h⟩ := bind_eq_ok h
  cases h
  rfl

theorem elementG8_tags : elementG8.tags .grayscale8 := by
  intro s y x e h
  obtain ⟨v, -, h⟩ := bind_eq_ok h
  cases h
  rfl

theorem elementRgb24_tags : elementRgb24.tags .rgb24 := by
  intro s y x e h
  obtain ⟨r, -, h⟩ := bind_eq_ok h
  obtain ⟨g, -, h⟩ := bind_eq_ok h
  obtain ⟨b, -, h⟩ := bind_eq_ok h
  cases h
  rfl

theorem elementBgr24_tags : elementBgr24.tags .bgr24 := by
  intro s y x e h
  obtain ⟨b, -, h⟩ := bind_eq_ok h
  obtain ⟨g, -, h⟩ := bind_eq_ok h
  obtain ⟨r, -, h⟩ := bind_eq_ok h
  cases h
  rfl

theorem elementIdx8_tags : elementIdx8.tags .indexed8 := by
  intro s y x e h
  obtain ⟨i, -, h⟩ := bind_eq_ok h
  cases h
  rfl

theorem elementIdx1_tags : elementIdx1.tags .indexed8 := by
  intro s y x e h
  obtain ⟨bit, -, h⟩ := bind_eq_ok h
  cases h
  rfl

theorem elementRgba32_tags : elementRgba32.tags .rgba32 := by
  intro s y x e h
  obtain ⟨pad, -, h⟩ := bind_eq_ok h
  obtain ⟨b1, -, h⟩ := bind_eq_ok h
  obtain ⟨b2, -, h⟩ := bind_eq_ok h
  obtain ⟨b3, -, h⟩ := bind_eq_ok h
  cases h
  split <;> rfl

/-- Inside a row the next pixel is inside a row again, and its index is the next one (R151). -/
theorem State.nextPixel_index {s : State} (h : s.ax < s.cfgWidth.toNat) :
    s.nextPixel.ax < s.cfgWidth.toNat ∧
      s.nextPixel.pixIndex s.nextPixel.ay s.nextPixel.ax = s.pixIndex s.ay s.ax + 1 := by
  unfold State.nextPixel State.pixIndex
  split
  · rename_i hlast
    refine ⟨by show 0 < _; omega, ?_⟩
    show (s.ay + 1) * s.cfgWidth.toNat + 0 = _
    rw [Nat.add_mul]
    omega
  · exact ⟨by show s.ax + 1 < _; omega, rfl⟩

/-- Assembling that goes on has left the elements below its first pixel, and has written the next `k` with the
operation's format. -/
theorem assembleRun_tagged {elem : Element} {f : PixelFormat} (hf : elem.tags f) (k : Nat) {s t : State}
    (hx : 0 < k → s.ax < s.cfgWidth.toNat) (h : assembleRun elem k s = .next t) (p : Nat) :
    (p < s.pixIndex s.ay s.ax → Memory.read t.pix p = Memory.read s.pix p) ∧
      (s.pixIndex s.ay s.ax ≤ p → p < s.pixIndex s.ay s.ax + k →
        (Memory.read t.pix p).map Pixel.format = some f) := by
  induction k generalizing s with
  | zero =>
    cases h
    exact ⟨fun _ => rfl, fun _ _ => by omega⟩
  | succ k ih =>
    have hx := hx (Nat.succ_pos k)
    unfold assembleRun at h
    split at h
    · cases h
    · rename_i e he
      have hwritten := Memory.read_write s.pix (s.pixIndex s.ay s.ax) p e
      unfold State.writePix at h
      split at h
      · split at h
        · rename_i hk0
          cases h
          rw [State.complete_pix, hwritten]
          refine ⟨fun _ => if_neg (by omega), fun _ _ => ?_⟩
          rw [if_pos (by omega), Option.map_some, hf _ _ _ _ he]
        · obtain ⟨hax, hidx⟩ :=
            State.nextPixel_index (s := { s with pix := Memory.write s.pix (s.pixIndex s.ay s.ax) e }) hx
          obtain ⟨hlow, hhigh⟩ := ih (fun _ => by rw [State.nextPixel_cfgWidth]; exact hax) h
          rw [hidx] at hlow hhigh
          rw [State.nextPixel_pix, hwritten] at hlow
          change p < s.pixIndex s.ay s.ax + 1 → _ at hlow
          change s.pixIndex s.ay s.ax + 1 ≤ p → p < s.pixIndex s.ay s.ax + 1 + k → _ at hhigh
          refine ⟨fun hp => ?_, fun hp hp' => ?_⟩
          · rw [hlow (by omega), if_neg (by omega)]
          · by_cases hfirst : p = s.pixIndex s.ay s.ax
            · rw [hlow (by omega), if_pos hfirst, Option.map_some, hf _ _ _ _ he]
            · exact hhigh (by omega) (by omega)
      · cases h

/-- A whole assembly operation that goes on: the result is declared valid, and from the first pixel it is complete. -/
theorem assemble_move {elem : Element} {s t : State} (hf : elem.tags s.fmt) (hp : s.phase = .assemble)
    (h : s.assemble elem = .next t) : SeqMove s t := by
  obtain ⟨m, a, b, hwf, rfl⟩ := assembleRun_next elem _ h
  refine .assemble m a b hp hwf fun hax hay hcount p hlt => ?_
  have hfirst : s.pixIndex s.ay s.ax = 0 := by simp [State.pixIndex, hax, hay]
  have hwidth : s.ax < s.cfgWidth.toNat := by
    rw [hax]
    refine Nat.pos_of_ne_zero fun hw => ?_
    rw [hcount, hw, Nat.zero_mul] at hlt
    exact absurd hlt (Nat.not_lt_zero p)
  exact (assembleRun_tagged hf _ (fun _ => hwidth) h p).2 (by omega) (by omega)

/-- The assembly operation of a format and depth tags its elements with that format (R150, R79). -/
theorem decodeAsm_exec {f : PixelFormat} {d : Word} {i : Instr} (h : decodeAsm f d = .ok i) :
    ∃ elem : Element, elem.tags f ∧ ∀ s, exec i s = s.assemble elem := by
  unfold decodeAsm at h
  split at h
  · split at h <;> cases h
    exact ⟨_, elementG1_tags, exec_asmG1⟩
  · split at h <;> cases h
    exact ⟨_, elementG8_tags, exec_asmG8⟩
  · split at h <;> cases h
    exact ⟨_, elementRgb24_tags, exec_asmRgb24⟩
  · split at h <;> cases h
    exact ⟨_, elementBgr24_tags, exec_asmBgr24⟩
  · split at h
    · cases h
      exact ⟨_, elementIdx8_tags, exec_asmIdx8⟩
    · split at h <;> cases h
      exact ⟨_, elementIdx1_tags, exec_asmIdx1⟩
  · split at h <;> cases h
    exact ⟨_, elementRgba32_tags, exec_asmRgba32⟩

/-- The assembler pulls no byte: it never finds the end of the stream. -/
theorem decodeAsm_ne_streamEnd (f : PixelFormat) (d : Word) : decodeAsm f d ≠ .error .streamEnd := by
  unfold decodeAsm
  repeat' split
  all_goals nofun

/-! ### What the decoder answers under each selection -/

theorem decode_magic_ok {bytes : List Byte} {i : Instr} (h : decode .magic bytes = .ok i) : ∃ w, i = .magic w := by
  simp only [decode] at h
  split at h <;> cases h
  exact ⟨_, rfl⟩

theorem decode_header_ok {bytes : List Byte} {i : Instr} (h : decode .header bytes = .ok i) :
    ∃ w ht d l ty cm m, i = .hdr w ht d l ty cm m := by
  simp only [decode] at h
  split at h <;> cases h
  rename_i hd
  simp only [decodeHeader, Option.bind_eq_bind, Option.bind_eq_some_iff, Option.some.injEq] at hd
  obtain ⟨⟨w, _⟩, -, ⟨ht, _⟩, -, ⟨d, _⟩, -, ⟨l, _⟩, -, ⟨ty, _⟩, -, ⟨cm, _⟩, -, ⟨m, _⟩, -, hi⟩ := hd
  exact ⟨w, ht, d, l, ty, cm, m, hi.symm⟩

theorem decode_rawCopy_ok {bytes : List Byte} {i : Instr} (h : decode .rawCopy bytes = .ok i) : ∃ b, i = .rawb b := by
  simp only [decode] at h
  split at h <;> cases h
  exact ⟨_, rfl⟩

/-! ### The sequencer -/

/-- In `DECOMP` the selected operation takes a fault of the stream or makes a move of `DECOMP`. -/
theorem exec_decomp_next {s u : State} {sel : Sel} {i : Instr} (hsel : sel = .rawCopy ∨ sel = .rle)
    (hd : decode sel s.remaining = .ok i) (h : exec i s = .next u) : u = s.raiseStreamEnd ∨ DecompMove s u := by
  obtain rfl | rfl := hsel
  · obtain ⟨b, rfl⟩ := decode_rawCopy_ok hd
    exact execRawb_next h
  · obtain ⟨b, rfl⟩ | rfl | ⟨c, v, rfl⟩ := decodeToken_cases hd
    · exact emit_afterToken_next h
    · exact emit_afterToken_next h
    · exact execRun_next h

/-- In `DECOMP` the selection is raw copy or a token, and it is missing only where the type has no mode (R120). -/
theorem State.selection_decomp {s : State} {sel : Sel} (hp : s.phase = .decomp) (h : s.selection = some sel) :
    sel = .rawCopy ∨ sel = .rle := by
  rw [State.selection, hp] at h
  dsimp only at h
  split at h <;> cases h
  · exact .inl rfl
  · exact .inr rfl

/-- The selected operation and the phase entry after it make a move of the sequencer. -/
theorem exec_move {s t : State} {sel : Sel} {i : Instr} (hsel : s.selection = some sel)
    (hd : decode sel s.remaining = .ok i) (h : enterPhase s.phase (exec i s) = .next t) : SeqMove s t := by
  have hs := hsel
  unfold State.selection at hs
  split at hs
  case h_2 hp =>
    cases hs
    obtain ⟨w, rfl⟩ := decode_magic_ok hd
    exact execMagic_move hp h
  case h_3 hp =>
    cases hs
    obtain ⟨w, ht, d, l, ty, cm, m, rfl⟩ := decode_header_ok hd
    exact execHdr_move hp h
  case h_4 hp =>
    cases hs
    cases hd
    exact execResolve_move hp h
  case h_5 hp =>
    cases hs
    cases hd
    exact execCmap_move hp h
  case h_6 hp =>
    cases hs
    cases hd
    exact execSize_move hp h
  case h_7 hp =>
    obtain ⟨u, hu, rfl⟩ := enterPhase_next h
    exact DecompMove.toSeqMove hp (exec_decomp_next (State.selection_decomp hp hsel) hd hu)
  case h_8 hp =>
    cases hs
    obtain ⟨elem, hf, he⟩ := decodeAsm_exec hd
    obtain ⟨u, hu, rfl⟩ := enterPhase_next h
    rw [he] at hu
    have hm := assemble_move hf hp hu
    obtain ⟨m, a, b, -, rfl⟩ := assembleRun_next elem _ hu
    rwa [State.entered_of_ne (by simp [hp]), State.enter, State.complete_phase]
  all_goals cases hs

/-- In a busy phase with no token under way a step finds no mode for the type, finds the end of the stream, or runs the
decoded operation. -/
theorem seqStep_cases {s t : State} (hb : Phase.isBusy s.phase = true) (hm : s.midToken = false)
    (h : seqStep s = .next t) :
    (s.selection = none ∧ t = s.raise .unsupportedType) ∨
      (∃ sel, s.selection = some sel ∧ decode sel s.remaining = .error .streamEnd ∧ t = s.raiseStreamEnd) ∨
      ∃ sel i, s.selection = some sel ∧ decode sel s.remaining = .ok i ∧ enterPhase s.phase (exec i s) = .next t := by
  simp only [seqStep, hb, hm, if_true, Bool.false_eq_true, if_false] at h
  split at h
  · cases h
    exact .inl ⟨‹_›, rfl⟩
  · split at h
    · exact .inr (.inr ⟨_, _, ‹_›, ‹_›, h⟩)
    · cases h
      exact .inr (.inl ⟨_, ‹_›, ‹_›, rfl⟩)
    · cases h

/-- Every step of the sequencer makes one of the moves. -/
theorem seqStep_move {s t : State} (h : seqStep s = .next t) : SeqMove s t := by
  cases hb : Phase.isBusy s.phase with
  | false =>
    rw [seqStep_of_resting hb] at h
    cases h
    exact .rest hb
  | true =>
    cases hm : s.midToken with
    | true =>
      rw [seqStep_of_midToken hm] at h
      obtain ⟨u, hu, rfl⟩ := enterPhase_next h
      simp only [State.midToken, Bool.and_eq_true, beq_iff_eq] at hm
      obtain ⟨⟨hp, hmode⟩, -⟩ := hm
      exact DecompMove.toSeqMove hp (rleTransition_next (by simp [hmode]) hu)
    | false =>
      have hasm (hp : s.phase = .assemble) : s.selection = some (.asm s.fmt s.cfgDepth) := by
        rw [State.selection, hp]
      obtain ⟨hnone, rfl⟩ | ⟨sel, hsel, hend, rfl⟩ | ⟨sel, i, hsel, hd, he⟩ := seqStep_cases hb hm h
      · exact .ofRaise .unsupportedType hb (fun hp => by simp [hasm hp] at hnone) (by decide)
      · refine .streamEnd hb fun hp => ?_
        rw [hasm hp] at hsel
        cases hsel
        exact decodeAsm_ne_streamEnd _ _ hend
      · exact exec_move hsel hd he

end Sys2Proof.Machine
end

section
/-! PROOFS. What a move of the host can do, said once, and with it what any step can do. -/

namespace Sys2Proof.Machine

/-- What a move of the host other than `pass` can leave (R33, R96, R210, R212, R214). -/
inductive HostEffect (s : State) : State → Prop where
  | none : HostEffect s s
  | config (width height depth length : Word) (ty : RasType) (cm : CmapType) (cmapLength : Word) : s.busy = false →
      HostEffect s
        { s with
          cfgWidth := width, cfgHeight := height, cfgDepth := depth, cfgLength := length, cfgType := ty
          cfgCmapType := cm, cfgCmapLength := cmapLength }
  | decode (p : Phase) : s.busy = false → p = .magic ∨ p = .resolve → HostEffect s { s.accept with phase := p }
  | detect (r : Bool) : s.busy = false →
      HostEffect s { s.accept with detectResult := r, phase := .done, busy := false, done := true }
  | attach (bytes : List Byte) : s.busy = false → HostEffect s { s with input := s.input.takeD s.ipos 0 ++ bytes }
  | close : HostEffect s { s with input := s.input.take s.ipos }
  | reset : HostEffect s s.hostReset

theorem command_effect {s t : State} {c : BitVec 2} (hb : s.busy = false) (h : s.command c = .next t) :
    HostEffect s t := by
  unfold State.command at h
  split at h
  · cases h
    exact .detect _ hb
  split at h
  · cases h
    exact .decode .magic hb (.inl rfl)
  split at h
  · cases h
    exact .decode .resolve hb (.inr rfl)
  · cases h
    exact .none

theorem hostWriteReg_effect {s t : State} {n : BitVec 4} {v : Word} (h : s.hostWriteReg n v = .next t) :
    HostEffect s t := by
  unfold State.hostWriteReg at h
  split at h
  · cases h
    exact .none
  rename_i hb
  have hb : s.busy = false := by simpa using hb
  iterate 7
    split at h
    · cases h
      exact .config _ _ _ _ _ _ _ hb
  split at h
  · exact command_effect hb h
  · cases h
    exact .none

/-- Every move of the host but `pass` has one of the effects. -/
theorem hostMove_effect {m : HostMove} {s t : State} (hm : m ≠ .pass) (h : hostMove m s = .next t) :
    HostEffect s t := by
  cases m with
  | pass => exact absurd rfl hm
  | writeReg n v => exact hostWriteReg_effect h
  | readReg n =>
    simp only [hostMove] at h
    split at h <;> cases h
    exact .none
  | readPal i =>
    simp only [hostMove] at h
    split at h <;> cases h
    exact .none
  | readPix p =>
    simp only [hostMove] at h
    split at h <;> cases h
    exact .none
  | attach bytes =>
    simp only [hostMove] at h
    split at h <;> cases h
    rename_i hb
    exact .attach bytes (by simpa using hb)
  | close =>
    cases h
    exact .close
  | reset =>
    cases h
    exact .reset

/-- Every step: the sequencer's move where no host move is coming; else the move of the host that comes next, which may
be to let the sequencer go on. -/
theorem step_cases {s t : State} (h : step s = .next t) :
    (s.pending = [] ∧ SeqMove s t) ∨
      ∃ rest, SeqMove { s with pending := rest } t ∨ HostEffect { s with pending := rest } t := by
  cases hp : s.pending with
  | nil =>
    rw [step_of_idle_host hp] at h
    exact .inl ⟨rfl, seqStep_move h⟩
  | cons m rest =>
    rw [step_of_host hp] at h
    refine .inr ⟨rest, ?_⟩
    by_cases hm : m = .pass
    · subst hm
      exact .inl (seqStep_move h)
    · exact .inr (hostMove_effect hm h)

/-- A property that does not look at the list of the host's moves, and that every move of the sequencer and every effect
of a host move keeps, is kept by every step. -/
theorem step_preserves {P : State → Prop} (hpending : ∀ s rest, P s → P { s with pending := rest })
    (hseq : ∀ s t, P s → SeqMove s t → P t) (hhost : ∀ s t, P s → HostEffect s t → P t) {s t : State} (hs : P s)
    (h : step s = .next t) : P t := by
  obtain ⟨-, hm⟩ | ⟨rest, hm | he⟩ := step_cases h
  · exact hseq _ _ hs hm
  · exact hseq _ _ (hpending s rest hs) hm
  · exact hhost _ _ (hpending s rest hs) he

end Sys2Proof.Machine
end

section
/-! PROOFS. The order of the phases (O9), the registers no step writes (O10), and the flags (O7), each a case analysis
on the moves. -/

namespace Sys2Proof.Machine

/-! ### The phases -/

theorem SeqMove.phaseFollows {s t : State} (h : SeqMove s t) : phaseFollows s.phase t.phase = true := by
  cases h with
  | rest hb => cases hp : s.phase <;> simp_all [Phase.isBusy, Machine.phaseFollows]
  | fault i c hb ha => cases hp : s.phase <;> simp_all [Phase.isBusy, Machine.phaseFollows]
  | badEnum _ _ _ _ _ hp => simp [hp, Machine.phaseFollows]
  | magic hp => simp [hp, Machine.phaseFollows]
  | header _ _ _ _ _ _ _ hp => simp [hp, Machine.phaseFollows]
  | resolve f hp => simp [hp, Machine.phaseFollows]
  | cmapNone hp => simp [hp, Machine.phaseFollows]
  | cmapLoad _ _ _ hp => simp [hp, Machine.phaseFollows]
  | sizeEmpty hp => simp [hp, Machine.phaseFollows]
  | size hp => simp [hp, Machine.phaseFollows]
  | decomp t hp _ hq => simp [hp, hq, Machine.phaseFollows]
  | decompLast t hp => simp [hp, Machine.phaseFollows]
  | assemble _ _ _ hp => simp [hp, Machine.phaseFollows]

/-- Settles O9: every move of the sequencer goes to itself, to the next phase, or to `FAULT`. -/
theorem phaseMovesOnlyForward : Obligations.PhaseMovesOnlyForward := by
  intro s t hp h
  rw [step_of_idle_host hp] at h
  exact (seqStep_move h).phaseFollows

/-! ### The configuration and the parameters -/

theorem DecompMove.sameConfig {s t : State} (h : DecompMove s t) : sameConfig s t := by
  rw [h.frame]
  exact ⟨rfl, rfl, rfl, rfl, rfl, rfl, rfl⟩

theorem DecompMove.params {s t : State} (h : DecompMove s t) : t.params = s.params := by rw [h.frame]

theorem SeqMove.params {s t : State} (h : SeqMove s t) : t.params = s.params := by
  cases h with
  | decomp t _ hd => exact hd.params
  | decompLast t _ hd => exact hd.params
  | _ => rfl

theorem SeqMove.sameConfig {s t : State} (hp : s.phase ≠ .header) (h : SeqMove s t) : sameConfig s t := by
  cases h with
  | badEnum _ _ _ _ _ hq => exact absurd hq hp
  | header _ _ _ _ _ _ _ hq => exact absurd hq hp
  | decomp t _ hd => exact hd.sameConfig
  | decompLast t _ hd => exact hd.sameConfig
  | _ => exact ⟨rfl, rfl, rfl, rfl, rfl, rfl, rfl⟩

theorem HostEffect.params {s t : State} (h : HostEffect s t) : t.params = s.params := by
  cases h <;> rfl

/-- Settles O10: no move writes a parameter, and of the sequencer's moves only `HDR`'s two write a configuration
register. -/
theorem onlyHeaderWritesConfiguration : Obligations.OnlyHeaderWritesConfiguration := by
  intro s t h
  refine ⟨?_, fun hp hq => ?_⟩
  · obtain ⟨-, hm⟩ | ⟨rest, hm | he⟩ := step_cases h
    · exact hm.params
    · exact hm.params
    · exact he.params
  · rw [step_of_idle_host hp] at h
    exact (seqStep_move h).sameConfig hq

/-! ### The flags -/

/-- The flags and the fault record are unchanged (R25, R26, R27). -/
abbrev sameFlags (s t : State) : Prop :=
  t.busy = s.busy ∧ t.done = s.done ∧ t.fault = s.fault ∧ t.pixValid = s.pixValid ∧
    t.detectResult = s.detectResult ∧ t.faultKind = s.faultKind ∧ t.faultCause = s.faultCause

theorem sameFlags.refl (s : State) : sameFlags s s := ⟨rfl, rfl, rfl, rfl, rfl, rfl, rfl⟩

theorem DecompMove.sameFlags {s t : State} (h : DecompMove s t) : sameFlags s t := by
  rw [h.frame]
  exact .refl s

/-- In a busy phase every flag but `BUSY` is clear and no fault record stands. -/
theorem FlagsInv.ofBusy {s : State} (hf : FlagsInv s) (hb : Phase.isBusy s.phase = true) :
    s.busy = true ∧ s.done = false ∧ s.fault = false ∧ s.pixValid = false ∧ s.detectResult = false ∧
      s.faultKind = .none ∧ s.faultCause = .none := by
  have hd : s.phase ≠ .done := fun h => by simp [h, Phase.isBusy] at hb
  have hflt : s.phase ≠ .fault := fun h => by simp [h, Phase.isBusy] at hb
  have hcause : s.faultCause = .none := by simpa using mt hf.record.mpr hflt
  refine ⟨hf.busy.trans hb, ?_, ?_, ?_, ?_, ?_, hcause⟩
  · simp [hf.done, hd]
  · simp [hf.fault, hflt]
  · simpa using mt hf.pixValid hd
  · simpa using mt (fun h => (hf.detectResult h).1) hd
  · rw [hf.kind, hcause]
    rfl

/-- Between busy phases the flags stay. -/
theorem FlagsInv.betweenBusy {s t : State} (hf : FlagsInv s) (hb : Phase.isBusy s.phase = true)
    (hb' : Phase.isBusy t.phase = true) (h : sameFlags s t) : FlagsInv t := by
  obtain ⟨h1, h2, h3, h4, h5, h6, h7⟩ := hf.ofBusy hb
  obtain ⟨e1, e2, e3, e4, e5, e6, e7⟩ := h
  have hd : t.phase ≠ .done := fun h => by simp [h, Phase.isBusy] at hb'
  have hflt : t.phase ≠ .fault := fun h => by simp [h, Phase.isBusy] at hb'
  constructor <;> simp_all [causeKind]

/-- A fault in a busy phase writes the record and the two flags it says (R191). -/
theorem FlagsInv.raise {s u : State} {c : FaultCause} (hf : FlagsInv s) (hb : Phase.isBusy s.phase = true)
    (hc : c ≠ .none) (h : sameFlags s u) : FlagsInv (u.raise c) := by
  obtain ⟨h1, h2, h3, h4, h5, h6, h7⟩ := hf.ofBusy hb
  obtain ⟨e1, e2, e3, e4, e5, e6, e7⟩ := h
  constructor <;> simp_all [Phase.isBusy]

/-- A completed decode (R158). -/
theorem FlagsInv.complete {s u : State} (hf : FlagsInv s) (hb : Phase.isBusy s.phase = true) (h : sameFlags s u) :
    FlagsInv u.complete := by
  obtain ⟨h1, h2, h3, h4, h5, h6, h7⟩ := hf.ofBusy hb
  obtain ⟨e1, e2, e3, e4, e5, e6, e7⟩ := h
  constructor <;> simp_all [Phase.isBusy, causeKind]

theorem FlagsInv.withPending {s : State} (h : FlagsInv s) (rest : List HostMove) :
    FlagsInv { s with pending := rest } := by
  cases h
  constructor <;> assumption

theorem SeqMove.flags {s t : State} (hf : FlagsInv s) (h : SeqMove s t) : FlagsInv t := by
  have hbusy {p : Phase} (hp : s.phase = p) (hb : Phase.isBusy p = true) : Phase.isBusy s.phase = true := by rwa [hp]
  cases h with
  | rest => exact hf
  | fault i c hb _ hc => exact hf.raise hb hc (.refl s)
  | badEnum _ _ _ _ _ hp => exact hf.raise (hbusy hp rfl) (by decide) (.refl s)
  | magic hp => exact hf.betweenBusy (hbusy hp rfl) rfl (.refl s)
  | header _ _ _ _ _ _ _ hp => exact hf.betweenBusy (hbusy hp rfl) rfl (.refl s)
  | resolve f hp => exact hf.betweenBusy (hbusy hp rfl) rfl (.refl s)
  | cmapNone hp => exact hf.betweenBusy (hbusy hp rfl) rfl (.refl s)
  | cmapLoad _ _ _ hp => exact hf.betweenBusy (hbusy hp rfl) rfl (.refl s)
  | sizeEmpty hp => exact hf.betweenBusy (hbusy hp rfl) rfl (.refl s)
  | size hp => exact hf.betweenBusy (hbusy hp rfl) rfl (.refl s)
  | decomp t hp hd hq => exact hf.betweenBusy (hbusy hp rfl) (by rw [hq]; rfl) hd.sameFlags
  | decompLast t hp hd => exact hf.betweenBusy (hbusy hp rfl) rfl hd.sameFlags
  | assemble m a b hp => exact hf.complete (hbusy hp rfl) (.refl s)

theorem HostEffect.flags {s t : State} (hf : FlagsInv s) (h : HostEffect s t) : FlagsInv t := by
  obtain ⟨h1, h2, h3, h4, h5, h6, h7⟩ := hf
  cases h with
  | decode p _ hp =>
    obtain rfl | rfl := hp <;> constructor <;> simp [Phase.isBusy, causeKind]
  | detect r => constructor <;> simp [Phase.isBusy, causeKind]
  | reset => constructor <;> simp [State.reset, Phase.isBusy, causeKind]
  | _ => exact ⟨h1, h2, h3, h4, h5, h6, h7⟩

/-- Settles O7: the flags follow the phase through every move of the sequencer and of the host. -/
theorem flagsFollowThePhase : Obligations.FlagsFollowThePhase := fun _ _ hf h =>
  step_preserves (fun _ rest h => h.withPending rest) (fun _ _ => SeqMove.flags) (fun _ _ => HostEffect.flags) hf h

end Sys2Proof.Machine
end

section
/-! PROOFS. Every step keeps the invariant (O4): one lemma for each part of the invariant over the moves of the
sequencer, one lemma for each effect of a host move. -/

namespace Sys2Proof.Machine

/-! ### The sequencer, part by part -/

theorem DecompMove.stream {s t : State} (h : DecompMove s t) (hi : s.ipos ≤ s.input.length) :
    t.ipos ≤ t.input.length := by
  have hin : t.input = s.input := by rw [h.frame]
  rw [hin]
  exact h.within hi

/-- No move of the sequencer passes the end of the stream (R41). -/
theorem SeqMove.stream {s t : State} (hi : s.ipos ≤ s.input.length) (h : SeqMove s t) : t.ipos ≤ t.input.length := by
  cases h with
  | fault i c _ _ _ hl => exact hl hi
  | badEnum _ _ _ _ _ _ hl => exact hl
  | magic _ hl => exact hl
  | header _ _ _ _ _ _ _ _ hl => exact hl
  | cmapLoad _ _ _ _ _ _ hl => exact hl
  | decomp t _ hd => exact hd.stream hi
  | decompLast t _ hd => exact hd.stream hi
  | _ => exact hi

theorem DecompMove.stores {s t : State} (h : DecompMove s t) (hs : StoresInv s) : StoresInv t where
  raw := h.wf hs.raw
  pal := by rw [h.frame]; exact hs.pal
  pix := by rw [h.frame]; exact hs.pix

theorem StoresInv.raise (s : State) (c : FaultCause) : StoresInv (s.raise c) := ⟨rfl, rfl, rfl⟩

theorem SeqMove.stores {s t : State} (hs : StoresInv s) (h : SeqMove s t) : StoresInv t := by
  obtain ⟨hraw, hpal, hpix⟩ := hs
  cases h with
  | fault => exact .raise _ _
  | badEnum => exact .raise _ _
  | cmapLoad entries => exact ⟨hraw, Memory.wf_writeAll entries 0 hpal, hpix⟩
  | decomp t _ hd => exact hd.stores ⟨hraw, hpal, hpix⟩
  | decompLast t _ hd =>
    obtain ⟨hraw', hpal', hpix'⟩ := hd.stores ⟨hraw, hpal, hpix⟩
    exact ⟨hraw', hpal', hpix'⟩
  | assemble m a b _ hwf => exact ⟨rfl, hpal, hwf hpix⟩
  | _ => exact ⟨hraw, hpal, hpix⟩

/-- After a fault the palette is free and empty (R191). -/
theorem PaletteInv.raise (s : State) (c : FaultCause) : PaletteInv (s.raise c) where
  count := fun h => absurd rfl h
  dense := fun h => absurd rfl h
  early := by simp

/-- Outside `FAULT` the palette stays what it is, where it is not touched and the phases before `SIZE` are not entered
from later ones. -/
theorem PaletteInv.keep {s t : State} (hs : PaletteInv s) (hp : s.phase ≠ .fault) (hpal : t.pal = s.pal)
    (hcount : t.palCount = s.palCount)
    (hearly : t.phase = .magic ∨ t.phase = .header ∨ t.phase = .resolve ∨ t.phase = .cmap →
      s.phase = .magic ∨ s.phase = .header ∨ s.phase = .resolve ∨ s.phase = .cmap) : PaletteInv t where
  count := fun _ => hcount ▸ hs.count hp
  dense := fun _ => by rw [hpal, hcount]; exact hs.dense hp
  early := fun h => hcount ▸ hs.early (hearly h)

/-- The load of an empty palette makes it dense up to the count (R29, R94). -/
theorem PaletteInv.load {s t : State} {entries : List PalEntry} (hs : PaletteInv s) (hp : s.phase = .cmap)
    (hn : entries.length ≤ Config.palCapacity) (hpal : t.pal = Memory.writeAll s.pal 0 entries)
    (hcount : t.palCount = BitVec.ofNat 9 entries.length) (hq : t.phase = .size) : PaletteInv t := by
  have hcap : Config.palCapacity = 256 := rfl
  have hlen : t.palCount.toNat = entries.length := by
    rw [hcount, BitVec.toNat_ofNat]
    exact Nat.mod_eq_of_lt (by omega)
  have h0 : s.palCount = 0 := hs.early (by simp [hp])
  have hempty : Memory.dense s.pal 0 := by simpa [h0] using hs.dense (by simp [hp])
  refine ⟨fun _ => hlen ▸ hn, fun _ => ?_, fun h => by simp [hq] at h⟩
  rw [hpal, hlen]
  simpa using Memory.dense_writeAll entries hempty

theorem SeqMove.palette {s t : State} (hs : PaletteInv s) (h : SeqMove s t) : PaletteInv t := by
  cases h with
  | rest => exact hs
  | fault => exact .raise _ _
  | badEnum => exact .raise _ _
  | magic hp => exact hs.keep (by simp [hp]) rfl rfl (by simp [hp])
  | header _ _ _ _ _ _ _ hp => exact hs.keep (by simp [hp]) rfl rfl (by simp [hp])
  | resolve f hp => exact hs.keep (by simp [hp]) rfl rfl (by simp [hp])
  | cmapNone hp => exact hs.keep (by simp [hp]) rfl rfl (by simp)
  | cmapLoad entries i cidx hp hn => exact hs.load hp hn rfl rfl rfl
  | sizeEmpty hp => exact hs.keep (by simp [hp]) rfl rfl (by simp)
  | size hp => exact hs.keep (by simp [hp]) rfl rfl (by simp)
  | decomp t hp hd hq => exact hs.keep (by simp [hp]) (by rw [hd.frame]) (by rw [hd.frame]) (by simp [hq])
  | decompLast t hp hd =>
    exact hs.keep (by simp [hp]) (by rw [hd.frame]; rfl) (by rw [hd.frame]; rfl) (by simp)
  | assemble m a b hp => exact hs.keep (by simp [hp]) rfl rfl (by simp)

/-- The format stays the resolved one from `CMAP` on, while the configuration stays. -/
theorem SeqMove.format {s t : State} (hs : FormatInv s) (h : SeqMove s t) : FormatInv t := by
  cases h with
  | rest => exact hs
  | fault => simp [FormatInv]
  | badEnum => simp [FormatInv]
  | magic => simp [FormatInv]
  | header => simp [FormatInv]
  | resolve f _ hf => exact fun _ => ⟨rfl, hf⟩
  | cmapNone hp => exact fun _ => hs (by simp [hp])
  | cmapLoad _ _ _ hp => exact fun _ => hs (by simp [hp])
  | sizeEmpty hp => exact fun _ => hs (by simp [hp])
  | size hp => exact fun _ => hs (by simp [hp])
  | decomp t hp hd =>
    rw [hd.frame]
    exact fun _ => hs (by simp [hp])
  | decompLast t hp hd =>
    rw [hd.frame]
    exact fun _ => hs (by simp [hp])
  | assemble => simp [FormatInv]

/-- The sizes that `SIZE` computed stay through `DECOMP`. -/
theorem SeqMove.sizes {s t : State} (hs : SizesInv s) (h : SeqMove s t) : SizesInv t := by
  cases h with
  | rest => exact hs
  | fault => simp [SizesInv]
  | badEnum => simp [SizesInv]
  | magic => simp [SizesInv]
  | header => simp [SizesInv]
  | resolve => simp [SizesInv]
  | cmapNone => simp [SizesInv]
  | cmapLoad => simp [SizesInv]
  | sizeEmpty _ hf => exact fun _ => ⟨rfl, rfl, rfl, hf.raw, hf.pix, hf.mode⟩
  | size _ hf => exact fun _ => ⟨rfl, rfl, rfl, hf.raw, hf.pix, hf.mode⟩
  | decomp t hp hd =>
    rw [hd.frame]
    exact fun _ => hs (.inl hp)
  | decompLast t hp hd =>
    rw [hd.frame]
    exact fun _ => hs (.inl hp)
  | assemble => simp [SizesInv]

/-- While `DECOMP` goes on, the bytes below `OPOS` are written and `RAW` has room (R122). -/
theorem DecompMove.decomp {s t : State} (hs : DecompInv s) (hp : s.phase = .decomp) (h : DecompMove s t)
    (hq : t.phase = .decomp) : DecompInv t := by
  intro _
  obtain ⟨hroom, hdense, hrun, hmode⟩ := hs hp
  have hraw : t.rawSize = s.rawSize := by rw [h.frame]
  have hty : t.cfgType = s.cfgType := by rw [h.frame]
  refine ⟨?_, h.dense hdense, h.run hrun, fun hm => ?_⟩
  · rw [hraw]
    obtain ⟨-, he | hlt⟩ | ⟨hlast, -⟩ := h.leaves
    · omega
    · exact hlt
    · simp [hq] at hlast
  · rw [hty] at hm
    exact h.rawCopy (hmode hm) hm

/-- `DECOMP` is entered at `OPOS = 0` with nothing in `RAW` (R120). -/
theorem SeqMove.decompInv {s t : State} (hs : DecompInv s) (ha : AssembleInv s) (h : SeqMove s t) : DecompInv t := by
  cases h with
  | rest => exact hs
  | size hp _ h0 =>
    have hraw : s.raw = [] := ha.released (by simp [hp]) (by simp [hp])
    intro _
    refine ⟨Nat.pos_of_ne_zero h0, ?_, by simp [State.started], fun _ => rfl⟩
    show Memory.dense s.raw 0
    rw [hraw]
    exact Memory.dense_nil
  | decomp t hp hd hq => exact hd.decomp hs hp hq
  | _ => simp [DecompInv]

/-- `ASSEMBLE` is entered with a full `RAW`, and nothing is left in it outside `DECOMP` and `ASSEMBLE`. -/
theorem SeqMove.assembleInv {s t : State} (hs : DecompInv s) (ha : AssembleInv s) (h : SeqMove s t) :
    AssembleInv t := by
  have hempty (hd : s.phase ≠ .decomp) (has : s.phase ≠ .assemble) : s.raw = [] := ha.released hd has
  cases h with
  | rest => exact ha
  | fault => exact ⟨by simp, by simp⟩
  | badEnum => exact ⟨by simp, by simp⟩
  | sizeEmpty hp _ h0 =>
    refine ⟨fun _ => ⟨h0.symm, ?_, rfl, rfl⟩, by simp⟩
    show Memory.dense s.raw s.sized.rawSize
    rw [hempty (by simp [hp]) (by simp [hp]), h0]
    exact Memory.dense_nil
  | size => exact ⟨by simp, by simp⟩
  | decomp t _ _ hq => exact ⟨by simp [hq], fun h => absurd hq h⟩
  | decompLast t hp hd hq =>
    have hfull : t.opos = s.rawSize := by
      obtain ⟨hstay, -⟩ | ⟨-, hfull⟩ := hd.leaves
      · simp [hp, hq] at hstay
      · exact hfull
    have hraw : t.rawSize = s.rawSize := by rw [hd.frame]
    have hdense := hd.dense (hs hp).2.1
    refine ⟨fun _ => ⟨hfull.trans hraw.symm, ?_, rfl, rfl⟩, by simp⟩
    show Memory.dense t.raw t.rawSize
    rwa [hraw, ← hfull]
  | assemble => exact ⟨by simp, by simp⟩
  | magic hp => exact ⟨by simp, fun _ _ => hempty (by simp [hp]) (by simp [hp])⟩
  | header _ _ _ _ _ _ _ hp => exact ⟨by simp, fun _ _ => hempty (by simp [hp]) (by simp [hp])⟩
  | resolve f hp => exact ⟨by simp, fun _ _ => hempty (by simp [hp]) (by simp [hp])⟩
  | cmapNone hp => exact ⟨by simp, fun _ _ => hempty (by simp [hp]) (by simp [hp])⟩
  | cmapLoad _ _ _ hp => exact ⟨by simp, fun _ _ => hempty (by simp [hp]) (by simp [hp])⟩

/-- Outside `DONE` there is no valid result to speak of. -/
theorem ResultInv.ofNotDone {t : State} (hf : FlagsInv t) (hq : t.phase ≠ .done) : ResultInv t :=
  fun h => absurd (hf.pixValid h) hq

/-- A decode that completes has every element, tagged with `FMT` (R158). -/
theorem SeqMove.result {s t : State} (hi : Inv s) (h : SeqMove s t) : ResultInv t := by
  have hf := h.flags hi.flags
  cases h with
  | rest => exact hi.result
  | decomp t _ _ hq => exact .ofNotDone hf (by simp [hq])
  | assemble m a b hp _ htagged =>
    obtain ⟨-, -, hax, hay⟩ := hi.assemble.raw hp
    obtain ⟨-, -, hcount, -⟩ := hi.sizes (.inr hp)
    exact fun _ => ⟨hcount, htagged hax hay hcount⟩
  | _ => exact .ofNotDone hf (by simp)

theorem SeqMove.inv {s t : State} (hi : Inv s) (h : SeqMove s t) : Inv t where
  stream := h.stream hi.stream
  flags := h.flags hi.flags
  stores := h.stores hi.stores
  palette := h.palette hi.palette
  format := h.format hi.format
  sizes := h.sizes hi.sizes
  decomp := h.decompInv hi.decomp hi.assemble
  assemble := h.assembleInv hi.decomp hi.assemble
  result := h.result hi

/-! ### The host, effect by effect -/

/-- The list of the host's moves is no part of the invariant. -/
theorem Inv.withPending {s : State} (h : Inv s) (rest : List HostMove) : Inv { s with pending := rest } :=
  { h with
    flags := h.flags.withPending rest
    stores := { h.stores with }
    palette := { h.palette with }
    assemble := { h.assemble with } }

/-- The stream may be replaced while the position stays inside it. -/
theorem Inv.withInput {s : State} (h : Inv s) (input : List Byte) (hl : s.ipos ≤ input.length) :
    Inv { s with input := input } :=
  { h with
    stream := hl
    flags := { h.flags with }
    stores := { h.stores with }
    palette := { h.palette with }
    assemble := { h.assemble with } }

/-- While `BUSY = 0` the phase is a resting one (R25). -/
theorem FlagsInv.resting {s : State} (hf : FlagsInv s) (hb : s.busy = false) :
    s.phase = .idle ∨ s.phase = .done ∨ s.phase = .fault := by
  have hp : Phase.isBusy s.phase = false := hf.busy ▸ hb
  cases h : s.phase <;> simp_all [Phase.isBusy]

/-- At rest `RAW` holds nothing. -/
theorem Inv.raw_of_resting {s : State} (hi : Inv s) (hb : s.busy = false) : s.raw = [] := by
  obtain h | h | h := hi.flags.resting hb <;> exact hi.assemble.released (by simp [h]) (by simp [h])

/-- A write of configuration registers at rest: no part of the invariant reads them there. -/
theorem Inv.config {s : State} (hi : Inv s) (width height depth length : Word) (ty : RasType) (cm : CmapType)
    (cmapLength : Word) (hb : s.busy = false) :
    Inv
      { s with
        cfgWidth := width, cfgHeight := height, cfgDepth := depth, cfgLength := length, cfgType := ty
        cfgCmapType := cm, cfgCmapLength := cmapLength } :=
  { hi with
    flags := { hi.flags with }
    stores := { hi.stores with }
    palette := { hi.palette with }
    format := by obtain h | h | h := hi.flags.resting hb <;> simp [FormatInv, h]
    sizes := by obtain h | h | h := hi.flags.resting hb <;> simp [SizesInv, h]
    decomp := by obtain h | h | h := hi.flags.resting hb <;> simp [DecompInv, h]
    assemble := { hi.assemble with } }

/-- An accepted command starts in `MAGIC` or `RESOLVE`, or has run in `DONE`: its palette is empty, no result is valid
yet, and nothing is left in `RAW` (R96, R211). -/
theorem Inv.command {s t : State} (hi : Inv s) (hb : s.busy = false) (hf : FlagsInv t)
    (hp : t.phase = .magic ∨ t.phase = .resolve ∨ t.phase = .done) (hvalid : t.pixValid = false)
    (hin : t.input = s.input) (hpos : t.ipos = s.ipos) (hpal : t.pal = []) (hcount : t.palCount = 0)
    (hraw : t.raw = s.raw) (hpix : t.pix = s.pix) : Inv t where
  stream := by rw [hin, hpos]; exact hi.stream
  flags := hf
  stores := ⟨by rw [hraw]; exact hi.stores.raw, by rw [hpal]; rfl, by rw [hpix]; exact hi.stores.pix⟩
  palette := ⟨fun _ => by simp [hcount], fun _ => by rw [hpal, hcount]; rfl, fun _ => hcount⟩
  format := by obtain h | h | h := hp <;> simp [FormatInv, h]
  sizes := by obtain h | h | h := hp <;> simp [SizesInv, h]
  decomp := by obtain h | h | h := hp <;> simp [DecompInv, h]
  assemble := ⟨by obtain h | h | h := hp <;> simp [h], fun _ _ => by rw [hraw]; exact hi.raw_of_resting hb⟩
  result := by simp [ResultInv, hvalid]

/-- Settles O2, part by part: the phase is `IDLE`, so most parts ask nothing, and the stores are empty. -/
theorem invariantHoldsAtReset : Obligations.InvariantHoldsAtReset where
  stream := le_rfl
  flags := by constructor <;> simp [State.reset, Phase.isBusy, causeKind]
  stores := ⟨rfl, rfl, rfl⟩
  palette := ⟨fun _ => Nat.zero_le _, fun _ => rfl, fun _ => rfl⟩
  format := by simp [FormatInv, State.reset]
  sizes := by simp [SizesInv, State.reset]
  decomp := by simp [DecompInv, State.reset]
  assemble := ⟨by simp [State.reset], fun _ _ => rfl⟩
  result := by simp [ResultInv, State.reset]

/-- A reset by the host leaves the state after reset but for the stream, the parameters and the model's own fields. -/
theorem Inv.hostReset (s : State) : Inv s.hostReset :=
  have hr : Inv State.reset := invariantHoldsAtReset
  { hr with
    stream := Nat.zero_le _
    flags := { hr.flags with }
    stores := { hr.stores with }
    palette := { hr.palette with }
    sizes := by simp [SizesInv, State.reset]
    assemble := { hr.assemble with } }

theorem HostEffect.inv {s t : State} (hi : Inv s) (h : HostEffect s t) : Inv t := by
  have hf := h.flags hi.flags
  cases h with
  | none => exact hi
  | config _ _ _ _ _ _ _ hb => exact hi.config _ _ _ _ _ _ _ hb
  | decode p hb hp =>
    exact hi.command hb hf (hp.elim .inl fun h => .inr (.inl h)) rfl rfl rfl rfl rfl rfl rfl
  | detect r hb => exact hi.command hb hf (.inr (.inr rfl)) rfl rfl rfl rfl rfl rfl rfl
  | attach bytes hb => exact hi.withInput _ (by simp)
  | close => exact hi.withInput _ (by simpa using hi.stream)
  | reset => exact .hostReset s

/-- Settles O4: the invariant is kept by every move of the sequencer and by every effect of a host move. -/
theorem everyStepKeepsTheInvariant : Obligations.EveryStepKeepsTheInvariant := fun _ _ hi h =>
  step_preserves (fun _ rest h => h.withPending rest) (fun _ _ => SeqMove.inv) (fun _ _ => HostEffect.inv) hi h

end Sys2Proof.Machine
end

section
/-! PROOFS. `CFG.LENGTH` is read by no operation (O12): every operation but `HDR` commutes with overwriting it. -/

namespace Sys2Proof.Machine

/-- The state with another value in `CFG.LENGTH` (R14). -/
def State.withLength (v : Word) (s : State) : State := { s with cfgLength := v }

/-- The outcome with another value in `CFG.LENGTH` of the next state; the model's stops stay. -/
def outWithLength (v : Word) : Out → Out
  | .next t => .next (t.withLength v)
  | .fault f => .fault f
  | .refused r => .refused r

/-- The operation does the same whatever `CFG.LENGTH` holds, and leaves it. -/
def IgnoresLength (k : State → Out) : Prop := ∀ v s, k (s.withLength v) = outWithLength v (k s)

/-! ### The shared operations -/

/-- A choice that does not look at `CFG.LENGTH`. -/
theorem IgnoresLength.ite {c : State → Prop} [∀ s, Decidable (c s)] {a b : State → Out}
    (hc : ∀ v s, c (s.withLength v) ↔ c s) (ha : IgnoresLength a) (hb : IgnoresLength b) :
    IgnoresLength fun s => if c s then a s else b s := by
  intro v s
  by_cases h : c s
  · simpa only [if_pos h, if_pos ((hc v s).mpr h)] using ha v s
  · simpa only [if_neg h, if_neg (mt (hc v s).mp h)] using hb v s

theorem IgnoresLength.consume {k : State → Out} (hk : IgnoresLength k) (n : Nat) :
    IgnoresLength fun s => s.consume n k :=
  .ite (c := fun s => s.ipos + n ≤ s.input.length) (a := fun s => k { s with ipos := s.ipos + n })
    (b := fun s => .next s.raiseStreamEnd) (fun _ _ => Iff.rfl) (fun v s => hk v { s with ipos := s.ipos + n })
    (fun _ _ => rfl)

theorem IgnoresLength.emit {k : State → Out} (hk : IgnoresLength k) (b : Byte) :
    IgnoresLength fun s => s.emit b k :=
  .ite (c := fun s => s.opos < s.rawSize)
    (a := fun s => k { s with raw := Memory.write s.raw s.opos b, opos := s.opos + 1 })
    (b := fun _ => .fault .rawOutOfRange) (fun _ _ => Iff.rfl)
    (fun v s => hk v { s with raw := Memory.write s.raw s.opos b, opos := s.opos + 1 }) (fun _ _ => rfl)

theorem IgnoresLength.writePix {k : State → Out} (hk : IgnoresLength k) (p : Nat) (e : Pixel) :
    IgnoresLength fun s => s.writePix p e k :=
  .ite (c := fun s => p < s.pixCount) (a := fun s => k { s with pix := Memory.write s.pix p e })
    (b := fun _ => .fault .pixOutOfRange) (fun _ _ => Iff.rfl)
    (fun v s => hk v { s with pix := Memory.write s.pix p e }) (fun _ _ => rfl)

theorem afterToken_ignoresLength : IgnoresLength fun s => .next s.afterToken := by
  intro v s
  simp only [afterToken_eq]
  rfl

/-! ### The front end -/

theorem execMagic_ignoresLength (w : Word) : IgnoresLength (execMagic w) :=
  IgnoresLength.consume (.ite (fun _ _ => Iff.rfl) (fun _ _ => rfl) (fun _ _ => rfl)) 4

theorem execResolve_ignoresLength : IgnoresLength execResolve := by
  intro v s
  have hsame : resolveFormat (s.withLength v).cfgDepth (s.withLength v).cfgType
      (decide (0 < (s.withLength v).cfgCmapLength.toNat)) =
        resolveFormat s.cfgDepth s.cfgType (decide (0 < s.cfgCmapLength.toNat)) := rfl
  simp only [execResolve, hsame]
  split <;> rfl

theorem loadPalette_ignoresLength (n : Nat) : IgnoresLength fun s => s.loadPalette n := by
  intro v s
  exact IgnoresLength.consume (k := fun u =>
    .next
      { u with
        cidx := u.cfgCmapLength.toNat - 1
        pal := Memory.writeAll u.pal 0 (paletteEntries (s.remaining.take s.cfgCmapLength.toNat) n)
        palCount := BitVec.ofNat 9 n
        phase := .size }) (fun _ _ => rfl) s.cfgCmapLength.toNat v s

theorem execCmap_ignoresLength : IgnoresLength execCmap := by
  intro v s
  have hty : (s.withLength v).cfgCmapType = s.cfgCmapType := rfl
  have hlen : (s.withLength v).cfgCmapLength = s.cfgCmapLength := rfl
  simp only [execCmap, hty, hlen]
  split
  · split
    · split
      · rfl
      · exact loadPalette_ignoresLength _ v s
    · rfl
  all_goals rfl

theorem execSize_ignoresLength : IgnoresLength execSize :=
  .ite (c := fun s => s.params.rawCapacity < s.sized.rawSize ∨ s.params.pixCapacity < s.sized.pixCount)
    (a := fun s => .next (s.sized.raise .capacityExceeded)) (b := fun s => .next { s.sized with phase := .decomp })
    (fun _ _ => Iff.rfl) (fun _ _ => rfl) (fun _ _ => rfl)

/-! ### The decompressor -/

theorem execRawb_ignoresLength (b : Byte) : IgnoresLength (execRawb b) := by
  refine IgnoresLength.consume (IgnoresLength.emit (fun v s => ?_) b) 1
  exact congrArg Host.Outcome.next
    (apply_ite (State.withLength v) (s.opos = s.rawSize) { s with phase := .assemble } s).symm

theorem emitRun_ignoresLength (k : Nat) : IgnoresLength (emitRun k) := by
  induction k with
  | zero => exact afterToken_ignoresLength
  | succ k ih =>
    intro v s
    have hbody : IgnoresLength fun u =>
        if u.opos = u.rawSize then .next ({ u with rcount := u.rcount - 1 } : State).afterToken
        else emitRun k { u with rcount := u.rcount - 1 } :=
      .ite (fun _ _ => Iff.rfl) (fun v u => afterToken_ignoresLength v { u with rcount := u.rcount - 1 })
        (fun v u => ih v { u with rcount := u.rcount - 1 })
    exact hbody.emit s.rvalue v s

theorem execRun_ignoresLength (c b : Byte) : IgnoresLength (execRun c b) :=
  IgnoresLength.consume (fun v s => emitRun_ignoresLength _ v { s with rcount := runCount c, rvalue := b }) 3

/-! ### The assembler -/

/-- The element does not depend on `CFG.LENGTH`. -/
def Element.ignoresLength (elem : Element) : Prop := ∀ (v : Word) (s : State), elem (s.withLength v) = elem s

theorem nextPixel_withLength (v : Word) (s : State) : (s.withLength v).nextPixel = s.nextPixel.withLength v :=
  (apply_ite (State.withLength v) (s.ax + 1 = s.cfgWidth.toNat) { s with ax := 0, ay := s.ay + 1 }
    { s with ax := s.ax + 1 }).symm

theorem assembleRun_ignoresLength {elem : Element} (he : elem.ignoresLength) (k : Nat) :
    IgnoresLength (assembleRun elem k) := by
  induction k with
  | zero => exact fun _ _ => rfl
  | succ k ih =>
    intro v s
    have hax : (s.withLength v).ax = s.ax := rfl
    have hay : (s.withLength v).ay = s.ay := rfl
    simp only [assembleRun, he v s, hax, hay]
    split
    · rfl
    · rename_i e _
      have hbody : IgnoresLength fun u => if k = 0 then .next u.complete else assembleRun elem k u.nextPixel :=
        .ite (fun _ _ => Iff.rfl) (fun _ _ => rfl) fun v u => by
          rw [nextPixel_withLength]
          exact ih v u.nextPixel
      exact hbody.writePix _ e v s

theorem assemble_ignoresLength {elem : Element} (he : elem.ignoresLength) : IgnoresLength fun s => s.assemble elem :=
  fun v s => assembleRun_ignoresLength he (s.pixCount - s.pixIndex s.ay s.ax) v s

/-! ### Every operation -/

theorem exec_ignoresLength {i : Instr} (hi : ∀ w h d l t c m, i ≠ .hdr w h d l t c m) : IgnoresLength (exec i) := by
  cases i with
  | detect => exact fun _ _ => rfl
  | magic w => exact execMagic_ignoresLength w
  | hdr w h d l t c m => exact absurd rfl (hi w h d l t c m)
  | resolve => exact execResolve_ignoresLength
  | cmap => exact execCmap_ignoresLength
  | size => exact execSize_ignoresLength
  | rawb b => exact execRawb_ignoresLength b
  | esc0 => exact (afterToken_ignoresLength.emit _).consume 2
  | run c b => exact execRun_ignoresLength c b
  | lit b => exact (afterToken_ignoresLength.emit b).consume 1
  | asmG1 => exact assemble_ignoresLength (elem := elementG1) fun _ _ => rfl
  | asmG8 => exact assemble_ignoresLength (elem := elementG8) fun _ _ => rfl
  | asmRgb24 => exact assemble_ignoresLength (elem := elementRgb24) fun _ _ => rfl
  | asmBgr24 => exact assemble_ignoresLength (elem := elementBgr24) fun _ _ => rfl
  | asmIdx8 => exact assemble_ignoresLength (elem := elementIdx8) fun _ _ => rfl
  | asmIdx1 => exact assemble_ignoresLength (elem := elementIdx1) fun _ _ => rfl
  | asmRgba32 => exact assemble_ignoresLength (elem := elementRgba32) fun _ _ => rfl

/-- Settles O12: overwriting `CFG.LENGTH` before the operation is overwriting it after. -/
theorem lengthIsNeverRead : Obligations.LengthIsNeverRead := by
  intro i s v hi
  have hsame : exec i { s with cfgLength := v } = outWithLength v (exec i s) := exec_ignoresLength hi v s
  refine ⟨fun t ht => ?_, fun f hf => ?_⟩
  · rw [hsame, ht]
    rfl
  · rw [hsame, hf]
    rfl

end Sys2Proof.Machine
end

section
/-! PROOFS. The reset values (O1), the fetch (O18), and the register port (O47 to O50, O55, O56). -/

namespace Sys2Proof.Machine

/-- Settles O1: the reset state is one fixed record. -/
theorem resetHoldsTheStatedValues : Obligations.ResetHoldsTheStatedValues :=
  ⟨rfl, rfl, rfl, rfl, rfl, rfl, rfl, rfl, rfl, Memory.read_nil, rfl, rfl⟩

/-- Only a busy phase selects an operation (R75, R96). -/
theorem State.busy_of_selection {s : State} {sel : Sel} (h : s.selection = some sel) :
    Phase.isBusy s.phase = true := by
  cases hp : s.phase <;> simp_all [State.selection, Phase.isBusy]

/-- Settles O18: with no token under way and no move of the host, the sequencer's branch for a decoded operation. -/
theorem stepRunsTheDecodedOperation : Obligations.StepRunsTheDecodedOperation := by
  intro s sel i hp hm hsel hd
  rw [step_of_idle_host hp]
  exact seqStep_of_decode (State.busy_of_selection hsel) hm hsel hd

/-! ### Register writes -/

theorem hostWriteReg_of_busy {s : State} (hb : s.busy = true) (n : BitVec 4) (v : Word) :
    s.hostWriteReg n v = .next s := by
  simp [State.hostWriteReg, hb]

/-- The read-only registers are 7 to 14 (R33). -/
theorem readOnlyReg_cases {n : BitVec 4} (hlo : 7 ≤ n.toNat) (hhi : n.toNat ≤ 14) :
    n = 7 ∨ n = 8 ∨ n = 9 ∨ n = 10 ∨ n = 11 ∨ n = 12 ∨ n = 13 ∨ n = 14 := by
  revert n
  decide

theorem hostWriteReg_of_readOnly (s : State) {n : BitVec 4} (hlo : 7 ≤ n.toNat) (hhi : n.toNat ≤ 14) (v : Word) :
    s.hostWriteReg n v = .next s := by
  obtain rfl | rfl | rfl | rfl | rfl | rfl | rfl | rfl := readOnlyReg_cases hlo hhi <;> simp [State.hostWriteReg]

theorem hostWriteReg_of_reserved (s : State) {v : Word} (hv : v.toNat % 4 = 3) : s.hostWriteReg 15 v = .next s := by
  have hc : v.setWidth 2 = 3 := BitVec.eq_of_toNat_eq (by simpa using hv)
  simp [State.hostWriteReg, State.command, hc]

/-- Settles O47: the three kinds of write that are ignored. -/
theorem otherWritesAreIgnored : Obligations.OtherWritesAreIgnored := by
  intro s n v rest hp h
  rw [step_of_writeReg hp]
  obtain hb | ⟨hlo, hhi⟩ | ⟨rfl, hv⟩ := h
  · exact hostWriteReg_of_busy (s := { s with pending := rest }) hb n v
  · exact hostWriteReg_of_readOnly _ hlo hhi v
  · exact hostWriteReg_of_reserved _ hv

/-- The configuration registers are 0 to 6 (R33). -/
theorem configReg_cases {n : BitVec 4} (h : n.toNat ≤ 6) :
    n = 0 ∨ n = 1 ∨ n = 2 ∨ n = 3 ∨ n = 4 ∨ n = 5 ∨ n = 6 := by
  revert n
  decide

/-- The state with a configuration register written (R33); the two enumerations by their register codes. -/
def State.writeConfig (s : State) (n : BitVec 4) (v : Word) : State :=
  match n.toNat with
  | 0 => { s with cfgWidth := v }
  | 1 => { s with cfgHeight := v }
  | 2 => { s with cfgDepth := v }
  | 3 => { s with cfgLength := v }
  | 4 => { s with cfgType := RasType.ofCode (v.setWidth 3) }
  | 5 => { s with cfgCmapType := CmapType.ofCode (v.setWidth 2) }
  | 6 => { s with cfgCmapLength := v }
  | _ => s

theorem hostWriteReg_of_config {s : State} (hb : s.busy = false) {n : BitVec 4} (hn : n.toNat ≤ 6) (v : Word) :
    s.hostWriteReg n v = .next (s.writeConfig n v) := by
  obtain rfl | rfl | rfl | rfl | rfl | rfl | rfl := configReg_cases hn <;>
    simp [State.hostWriteReg, hb, State.writeConfig]

/-- A narrow register reads as its field, zero-extended. -/
theorem setWidth_setWidth_word (v : Word) (k : Nat) :
    (v.setWidth k).setWidth 32 = BitVec.ofNat 32 (v.toNat % 2 ^ k) := by
  refine BitVec.eq_of_toNat_eq ?_
  rw [BitVec.toNat_setWidth, BitVec.toNat_setWidth, BitVec.toNat_ofNat]

/-- A configuration register reads back, upper bits of the narrow ones dropped. -/
theorem hostReadReg_writeConfig (s : State) {n : BitVec 4} (hn : n.toNat ≤ 6) (v : Word) :
    (s.writeConfig n v).hostReadReg n =
      some (if n = 4 then BitVec.ofNat 32 (v.toNat % 8) else if n = 5 then BitVec.ofNat 32 (v.toNat % 4) else v) := by
  have h3 := setWidth_setWidth_word v 3
  have h2 := setWidth_setWidth_word v 2
  obtain rfl | rfl | rfl | rfl | rfl | rfl | rfl := configReg_cases hn
  case inr.inr.inr.inr.inl => simpa [State.hostReadReg, State.writeConfig] using h3
  case inr.inr.inr.inr.inr.inl => simpa [State.hostReadReg, State.writeConfig] using h2
  all_goals simp [State.hostReadReg, State.writeConfig]

/-! ### Register codes -/

/-- The list of R15 is the register code of each type. -/
theorem RasType.code_of_mem {code : Nat} {ty : RasType}
    (h : (code, ty) ∈
      [(0, RasType.old), (1, RasType.standard), (2, RasType.byteEncoded), (3, RasType.rgb), (4, RasType.tiff),
        (5, RasType.iff), (6, RasType.experimental), (7, RasType.code7)]) :
    (RasType.code ty).toNat = code := by
  revert h
  cases ty <;> simp [RasType.code, eq_comm]

/-- The list of R16 is the register code of each colour-map type. -/
theorem CmapType.code_of_mem {code : Nat} {ty : CmapType}
    (h : (code, ty) ∈ [(0, CmapType.none), (1, CmapType.rgb), (2, CmapType.raw), (3, CmapType.code3)]) :
    (CmapType.code ty).toNat = code := by
  revert h
  cases ty <;> simp [CmapType.code, eq_comm]

/-- The list of R18 is the register code of each format. -/
theorem PixelFormat.code_of_mem {code : Nat} {fmt : PixelFormat}
    (h : (code, fmt) ∈
      [(0, PixelFormat.grayscale1), (1, PixelFormat.grayscale8), (2, PixelFormat.indexed8), (3, PixelFormat.rgb24),
        (4, PixelFormat.bgr24), (5, PixelFormat.rgba32)]) :
    (PixelFormat.code fmt).toNat = code := by
  revert h
  cases fmt <;> simp [PixelFormat.code, eq_comm]

/-- The list of R20 is the register code of each phase. -/
theorem Phase.code_of_mem {code : Nat} {phase : Phase}
    (h : (code, phase) ∈
      [(0, Phase.idle), (1, Phase.magic), (2, Phase.header), (3, Phase.resolve), (4, Phase.cmap), (5, Phase.size),
        (6, Phase.decomp), (7, Phase.assemble), (8, Phase.done), (9, Phase.fault)]) :
    (Phase.code phase).toNat = code := by
  revert h
  cases phase <;> simp [Phase.code, eq_comm]

/-- The list of R26 is the code of each fault kind. -/
theorem FaultKind.code_of_mem {code : Nat} {kind : FaultKind}
    (h : (code, kind) ∈
      [(0, FaultKind.none), (1, FaultKind.invalidData), (2, FaultKind.unsupported), (3, FaultKind.resource)]) :
    (FaultKind.code kind).toNat = code := by
  revert h
  cases kind <;> simp [FaultKind.code, eq_comm]

/-- The list of R181 is the code of each fault cause. -/
theorem FaultCause.code_of_mem {code : Nat} {cause : FaultCause}
    (h : (code, cause) ∈
      [(0, FaultCause.none), (1, FaultCause.badMagic), (2, FaultCause.streamEnd), (3, FaultCause.badEnumCode),
        (4, FaultCause.paletteOverflow), (5, FaultCause.unsupportedDepth), (6, FaultCause.unsupportedColorMap),
        (7, FaultCause.unsupportedType), (8, FaultCause.capacityExceeded)]) :
    (FaultCause.code cause).toNat = code := by
  revert h
  cases cause <;> simp [FaultCause.code, eq_comm]

/-- A type is the one of its register code. -/
theorem RasType.ofCode_code (ty : RasType) : RasType.ofCode (RasType.code ty) = ty := by
  cases ty <;> rfl

theorem CmapType.ofCode_code (ty : CmapType) : CmapType.ofCode (CmapType.code ty) = ty := by
  cases ty <;> rfl

/-- The low bits of a written word are the register code that they stand for. -/
theorem setWidth_eq_of_mod {k : Nat} {v : Word} {c : BitVec k} (h : v.toNat % 2 ^ k = c.toNat) : v.setWidth k = c :=
  BitVec.eq_of_toNat_eq (by rw [BitVec.toNat_setWidth, h])

/-- Settles O48: each register's write and its read, by the register codes. -/
theorem configurationWritesReadBack : Obligations.ConfigurationWritesReadBack := by
  intro s n v rest hp hb
  have hstep (hn : n.toNat ≤ 6) : step s = .next (({ s with pending := rest } : State).writeConfig n v) := by
    rw [step_of_writeReg hp]
    exact hostWriteReg_of_config (s := { s with pending := rest }) hb hn v
  refine ⟨?_, ?_, ?_, ?_, ?_, ?_, ?_, fun hn => ⟨_, hstep hn, hostReadReg_writeConfig _ hn v⟩⟩
  · rintro rfl
    exact hstep (by decide)
  · rintro rfl
    exact hstep (by decide)
  · rintro rfl
    exact hstep (by decide)
  · rintro rfl
    exact hstep (by decide)
  · rintro rfl code ty hmem hv
    have hc : v.setWidth 3 = RasType.code ty := setWidth_eq_of_mod (hv.trans (RasType.code_of_mem hmem).symm)
    rw [hstep (by decide), ← RasType.ofCode_code ty, ← hc]
    rfl
  · rintro rfl code ty hmem hv
    have hc : v.setWidth 2 = CmapType.code ty := setWidth_eq_of_mod (hv.trans (CmapType.code_of_mem hmem).symm)
    rw [hstep (by decide), ← CmapType.ofCode_code ty, ← hc]
    rfl
  · rintro rfl
    exact hstep (by decide)

/-! ### Register reads -/

/-- Every bit of a flag's word but the lowest is 0. -/
theorem getLsbD_flagBit (b : Bool) (i : Nat) : (flagBit b).getLsbD i = (b && decide (i = 0)) := by
  cases b <;> simp [flagBit]

/-- `STATUS` bit by bit: the five flags, then the phase code from bit 8 on (R33). -/
theorem getLsbD_statusWord (s : State) (i : Nat) (hi : i < 32) :
    s.statusWord.getLsbD i =
      ((s.busy && decide (i = 0)) || (s.done && decide (i = 1)) || (s.fault && decide (i = 2)) ||
        (s.pixValid && decide (i = 3)) || (s.detectResult && decide (i = 4)) ||
        (decide (8 ≤ i) && (Phase.code s.phase).getLsbD (i - 8))) := by
  have hshift (b : Bool) (k : Nat) : (flagBit b <<< k).getLsbD i = (b && decide (i = k)) := by
    rw [BitVec.getLsbD_shiftLeft, getLsbD_flagBit]
    by_cases hik : i = k
    · simp [hik]
      omega
    · have : i < k ∨ i - k ≠ 0 := by omega
      obtain h | h := this <;> simp [h, hik]
  have hcode : (((Phase.code s.phase).setWidth 32 : Word) <<< 8).getLsbD i =
      (decide (8 ≤ i) && (Phase.code s.phase).getLsbD (i - 8)) := by
    rw [BitVec.getLsbD_shiftLeft, BitVec.getLsbD_setWidth]
    by_cases h8 : 8 ≤ i
    · simp [h8, hi, Nat.not_lt.mpr h8]
      omega
    · simp [h8, Nat.not_le.mp h8]
  rw [State.statusWord]
  simp only [BitVec.getLsbD_or, getLsbD_flagBit, hshift, hcode]

/-- Above the flags there is the phase code alone. -/
theorem getLsbD_statusWord_high (s : State) {i : Nat} (hlo : 5 ≤ i) (hhi : i < 32) :
    s.statusWord.getLsbD i = (decide (8 ≤ i) && (Phase.code s.phase).getLsbD (i - 8)) := by
  have hne (k : Nat) (hk : k < 5) : decide (i = k) = false := by
    simp only [decide_eq_false_iff_not]
    omega
  rw [getLsbD_statusWord s i hhi]
  simp [hne]

/-- Settles O49: the flags one by one, the three fields above them bit by bit. -/
theorem statusWordBits : Obligations.StatusWordBits := by
  intro s
  refine ⟨s.statusWord, rfl, ?_, ?_, ?_, ?_, ?_, ?_, ?_, ?_⟩
  · rw [getLsbD_statusWord s 0 (by decide)]
    simp
  · rw [getLsbD_statusWord s 1 (by decide)]
    simp
  · rw [getLsbD_statusWord s 2 (by decide)]
    simp
  · rw [getLsbD_statusWord s 3 (by decide)]
    simp
  · rw [getLsbD_statusWord s 4 (by decide)]
    simp
  · rintro code phase hmem rfl
    rw [← Phase.code_of_mem hmem, BitVec.ofNat_toNat, BitVec.setWidth_eq]
    refine BitVec.eq_of_getLsbD_eq fun i hi => ?_
    rw [BitVec.getLsbD_extractLsb', getLsbD_statusWord_high s (by omega) (by omega)]
    simp [hi]
  · refine BitVec.eq_of_getLsbD_eq fun i hi => ?_
    rw [BitVec.getLsbD_extractLsb', getLsbD_statusWord_high s (by omega) (by omega)]
    have hgap : ¬ 8 ≤ 5 + i := by omega
    simp [hgap]
  · refine BitVec.eq_of_getLsbD_eq fun i hi => ?_
    rw [BitVec.getLsbD_extractLsb', getLsbD_statusWord_high s (by omega) (by omega),
      BitVec.getLsbD_of_ge (Phase.code s.phase) _ (by omega)]
    simp

/-- A kind below 4 and a cause below 16 share a word without overlap. -/
theorem or_shiftLeft_four (k : BitVec 2) (c : BitVec 4) :
    (k.setWidth 32 ||| (c.setWidth 32 <<< 4) : Word) = BitVec.ofNat 32 (c.toNat * 16 + k.toNat) := by
  revert k c
  decide

/-- Settles O50: the word of the two codes. -/
theorem faultInfoWordBits : Obligations.FaultInfoWordBits := by
  rintro s kindCode causeCode kind cause hk hc rfl rfl
  have hread : s.hostReadReg 8 = some s.faultInfoWord := rfl
  rw [hread, State.faultInfoWord, or_shiftLeft_four, FaultKind.code_of_mem hk, FaultCause.code_of_mem hc]

/-! ### Which reads answer -/

theorem hostReadReg_fmt (s : State) :
    s.hostReadReg 9 = if s.fmtHeld then some ((PixelFormat.code s.fmt).setWidth 32) else none := rfl

theorem hostReadReg_outWidth (s : State) : s.hostReadReg 10 = if s.outHeld then some s.outWidth else none := rfl

theorem hostReadReg_outHeight (s : State) : s.hostReadReg 11 = if s.outHeld then some s.outHeight else none := rfl

theorem hostReadReg_palCount (s : State) :
    s.hostReadReg 12 = if s.palCountHeld then some (s.palCount.setWidth 32) else none := rfl

/-- A register code, zero-extended, is the number in its list. -/
theorem setWidth_eq_ofNat {k code : Nat} {c : BitVec k} (h : c.toNat = code) :
    (c.setWidth 32 : Word) = BitVec.ofNat 32 code := by
  rw [← h, BitVec.ofNat_toNat]

/-- `OUT_FMT` holds no value between the acceptance of a command and its `RESOLVE`, after a `DETECT`, and after a fault
(R35, R191). -/
theorem State.fmtHeld_eq_false {s : State}
    (h : s.phase = .magic ∨ s.phase = .header ∨ s.phase = .resolve ∨ (s.phase = .done ∧ s.pixValid = false) ∨
      s.phase = .fault) : s.fmtHeld = false := by
  obtain h | h | h | ⟨h, hv⟩ | h := h <;> simp [State.fmtHeld, h]
  exact hv

/-- `OUT_WIDTH` and `OUT_HEIGHT` hold no value while there is no valid result (R28, R35). -/
theorem State.outHeld_eq_false {s : State} (hidle : s.phase ≠ .idle)
    (hdone : ¬(s.phase = .done ∧ s.pixValid = true)) : s.outHeld = false := by
  rw [Bool.eq_false_iff, ne_eq, State.outHeld_iff]
  exact not_or.mpr ⟨hidle, hdone⟩

theorem hostReadReg_fmt_none {s : State} (h : s.fmtHeld = false) : s.hostReadReg 9 = none := by
  rw [hostReadReg_fmt, h]
  rfl

theorem hostReadReg_outWidth_none {s : State} (h : s.outHeld = false) : s.hostReadReg 10 = none := by
  rw [hostReadReg_outWidth, h]
  rfl

theorem hostReadReg_outHeight_none {s : State} (h : s.outHeld = false) : s.hostReadReg 11 = none := by
  rw [hostReadReg_outHeight, h]
  rfl

theorem hostReadReg_palCount_none {s : State} (h : s.phase = .fault) : s.hostReadReg 12 = none := by
  rw [hostReadReg_palCount, State.palCountHeld, h]
  rfl

/-- Settles O55, register by register. -/
theorem registerReadsAnswerTheMap : Obligations.RegisterReadsAnswerTheMap := by
  intro s
  refine ⟨rfl, rfl, rfl, rfl, ?_, ?_, rfl, ?_, ?_, ?_, ?_, ?_, ?_, ?_, ?_, rfl⟩
  · rintro code ty hmem rfl
    exact congrArg some (setWidth_eq_ofNat (RasType.code_of_mem hmem))
  · rintro code ty hmem rfl
    exact congrArg some (setWidth_eq_ofNat (CmapType.code_of_mem hmem))
  · rintro hp code fmt hmem rfl
    rw [hostReadReg_fmt, if_pos ((State.fmtHeld_iff s).mpr hp), setWidth_eq_ofNat (PixelFormat.code_of_mem hmem)]
  · intro hp
    exact hostReadReg_fmt_none (State.fmtHeld_eq_false hp)
  · intro hp
    have hheld : s.outHeld = true := (State.outHeld_iff s).mpr hp
    rw [hostReadReg_outWidth, hostReadReg_outHeight, if_pos hheld, if_pos hheld]
    exact ⟨rfl, rfl⟩
  · intro hidle hdone
    have hheld : s.outHeld = false := State.outHeld_eq_false hidle hdone
    exact ⟨hostReadReg_outWidth_none hheld, hostReadReg_outHeight_none hheld⟩
  · intro hp
    rw [hostReadReg_palCount, if_pos ((State.palCountHeld_iff s).mpr hp), setWidth_eq_ofNat rfl]
  · exact hostReadReg_palCount_none
  · exact congrArg some (BitVec.eq_of_toNat_eq (by simp))
  · exact congrArg some (BitVec.eq_of_toNat_eq (by simp))

/-- A read that answers leaves the state but for the move made. -/
theorem step_of_readReg_isSome {s : State} {n : BitVec 4} {rest : List HostMove}
    (hp : s.pending = .readReg n :: rest) (h : (s.hostReadReg n).isSome = true) :
    (∃ w, s.hostReadReg n = some w) ∧ step s = .next { s with pending := rest } :=
  ⟨Option.isSome_iff_exists.mp h, by rw [step_of_readReg hp, if_pos h]⟩

/-- A read that answers nothing is refused. -/
theorem step_of_readReg_none {s : State} {n : BitVec 4} {rest : List HostMove} (hp : s.pending = .readReg n :: rest)
    (h : s.hostReadReg n = none) : step s = .refused (s.readRegRefusal n) := by
  simp [step_of_readReg hp, h]

/-- The registers that may hold no value are 9 to 12 (R35). -/
theorem guardedReg_cases {n : BitVec 4} (hlo : 9 ≤ n.toNat) (hhi : n.toNat ≤ 12) :
    n = 9 ∨ n = 10 ∨ n = 11 ∨ n = 12 := by
  revert n
  decide

/-- After a fault none of the registers 9 to 12 answers (R191, U8). -/
theorem hostReadReg_of_fault {s : State} (hf : s.phase = .fault) {n : BitVec 4} (hlo : 9 ≤ n.toNat)
    (hhi : n.toNat ≤ 12) : s.hostReadReg n = none := by
  have hfmt : s.fmtHeld = false := State.fmtHeld_eq_false (by simp [hf])
  have hout : s.outHeld = false := State.outHeld_eq_false (by simp [hf]) (by simp [hf])
  obtain rfl | rfl | rfl | rfl := guardedReg_cases hlo hhi
  · exact hostReadReg_fmt_none hfmt
  · exact hostReadReg_outWidth_none hout
  · exact hostReadReg_outHeight_none hout
  · exact hostReadReg_palCount_none hf

/-- Settles O56: a read answers exactly where the register holds a value, and changes nothing then; else it is refused
by name. -/
theorem registerReadsChangeNothing : Obligations.RegisterReadsChangeNothing := by
  intro s n rest hp
  refine ⟨fun h => step_of_readReg_isSome hp ((hostReadReg_isSome s n).mpr ?_), ?_, ?_, ?_⟩
  · obtain hlow | rfl | rfl | ⟨rfl, hf⟩ | ⟨rfl, hfmt⟩ | ⟨rfl | rfl, hout⟩ := h
    · have hne (m : BitVec 4) (hm : 9 ≤ m.toNat) : n ≠ m := by
        rintro rfl
        omega
      exact ⟨hne 15 (by decide), fun h => absurd h (hne 9 (by decide)),
        fun h => absurd h (not_or.mpr ⟨hne 10 (by decide), hne 11 (by decide)⟩),
        fun h => absurd h (hne 12 (by decide))⟩
    · simp
    · simp
    · simpa using (State.palCountHeld_iff s).mpr hf
    · simpa using (State.fmtHeld_iff s).mpr hfmt
    · simpa using (State.outHeld_iff s).mpr hout
    · simpa using (State.outHeld_iff s).mpr hout
  · rintro rfl
    exact step_of_readReg_none hp rfl
  · intro hf hlo hhi
    rw [step_of_readReg_none hp (hostReadReg_of_fault hf hlo hhi), State.readRegRefusal, if_neg, if_pos hf]
    rintro rfl
    simp at hhi
  · rintro (⟨rfl, hph⟩ | ⟨rfl | rfl, hidle, hf, hdone⟩)
    · have hf : s.phase ≠ .fault := by obtain h | h | h | ⟨h, -⟩ := hph <;> simp [h]
      have hheld : s.fmtHeld = false := State.fmtHeld_eq_false (by tauto)
      rw [step_of_readReg_none hp (hostReadReg_fmt_none hheld)]
      simp [State.readRegRefusal, hf]
    · rw [step_of_readReg_none hp (hostReadReg_outWidth_none (State.outHeld_eq_false hidle hdone))]
      simp [State.readRegRefusal, hf]
    · rw [step_of_readReg_none hp (hostReadReg_outHeight_none (State.outHeld_eq_false hidle hdone))]
      simp [State.readRegRefusal, hf]

end Sys2Proof.Machine
end

section
/-! PROOFS. The stores and the stream over every step: the canonical form of `RAW`, `PAL` and `PIX` is kept (O8), and
the sequencer reads the stream forward and never writes it (O11). Both are case analyses on the moves. -/

namespace Sys2Proof.Machine

/-! ### The canonical form of the stores -/

theorem StoresInv.withPending {s : State} (h : StoresInv s) (rest : List HostMove) :
    StoresInv { s with pending := rest } := { h with }

/-- A host move writes no store entry: it leaves the three stores, or empties the palette (R211) or all three (R210). -/
theorem HostEffect.stores {s t : State} (hs : StoresInv s) (h : HostEffect s t) : StoresInv t := by
  obtain ⟨hraw, hpal, hpix⟩ := hs
  cases h with
  | decode => exact ⟨hraw, rfl, hpix⟩
  | detect => exact ⟨hraw, rfl, hpix⟩
  | reset => exact ⟨rfl, rfl, rfl⟩
  | _ => exact ⟨hraw, hpal, hpix⟩

/-- Settles O8: the canonical form is kept by every move of the sequencer and by every effect of a host move. -/
theorem storesStayCanonical : Obligations.StoresStayCanonical := fun _ _ hs h =>
  step_preserves (fun _ rest h => h.withPending rest) (fun _ _ => SeqMove.stores) (fun _ _ => HostEffect.stores) hs h

/-! ### The stream -/

/-- R55: no move of the sequencer writes the stream. -/
theorem SeqMove.input {s t : State} (h : SeqMove s t) : t.input = s.input := by
  cases h with
  | decomp t _ hd => rw [hd.frame]
  | decompLast t _ hd => rw [State.enterAssemble_input, hd.frame]
  | _ => rfl

/-- R21: a move of the sequencer that takes no fault does not move `IPOS` back. -/
theorem SeqMove.forward {s t : State} (hq : t.phase ≠ .fault) (h : SeqMove s t) : s.ipos ≤ t.ipos := by
  cases h with
  | fault => exact absurd rfl hq
  | badEnum => exact absurd rfl hq
  | magic => exact Nat.le_add_right _ _
  | header => exact Nat.le_add_right _ _
  | cmapLoad _ _ _ _ _ hle => exact hle
  | decomp t _ hd => exact hd.forward
  | decompLast t _ hd => exact hd.forward
  | _ => exact le_rfl

/-- Settles O11: with no host move coming, the step is a move of the sequencer. -/
theorem streamIsReadOnlyAndForward : Obligations.StreamIsReadOnlyAndForward := by
  intro s t hp hi h
  rw [step_of_idle_host hp] at h
  have hm : SeqMove s t := seqStep_move h
  exact ⟨hm.input, fun hq => ⟨hm.forward hq, hm.stream hi⟩⟩

end Sys2Proof.Machine
end

section
/-! PROOFS. The byte view of `PIX` (O45): an assembly operation that copies `k` bytes to an element leaves elements
whose byte views are the bytes of `RAW`. -/

namespace Sys2Proof.Machine

/-- R44: on a ready image the operation makes at index `p` one element, whose byte view is the `k` bytes of `RAW` from
`k * p` on. -/
def Element.copies (elem : Element) (k : Nat) : Prop :=
  ∀ (s : State) (p : Nat), readyToAssemble s → k * p + k ≤ s.rawSize →
    ∃ e view, (∀ y x, s.pixIndex y x = p → elem s y x = .ok e) ∧ Pixel.byteView e = some view ∧ view.length = k ∧
      ∀ j < k, view[j]? = Memory.read s.raw (k * p + j)

/-- An operation that wraps the byte at the pixel's index copies one byte (R152, R155). -/
theorem Element.copies_of_byte {elem : Element} (wrap : Byte → Pixel) (hview : ∀ v, Pixel.byteView (wrap v) = some [v])
    (helem : ∀ s y x v, s.readRaw (s.pixIndex y x) = .ok v → elem s y x = .ok (wrap v)) : elem.copies 1 := by
  intro s p hr hroom
  obtain ⟨v, hv, hok⟩ := readRaw_of_ready (i := p) hr (by omega)
  refine ⟨wrap v, [v], ?_, hview v, rfl, ?_⟩
  · rintro y x rfl
    exact helem s y x v hok
  · intro j hj
    obtain rfl : j = 0 := by omega
    simp [hv]

/-- An operation that wraps the three bytes from three times the pixel's index on copies three (R153, R154). -/
theorem Element.copies_of_triple {elem : Element} (wrap : Byte → Byte → Byte → Pixel)
    (hview : ∀ u v w, Pixel.byteView (wrap u v w) = some [u, v, w])
    (helem : ∀ s y x u v w, s.readRaw (3 * s.pixIndex y x) = .ok u → s.readRaw (3 * s.pixIndex y x + 1) = .ok v →
      s.readRaw (3 * s.pixIndex y x + 2) = .ok w → elem s y x = .ok (wrap u v w)) : elem.copies 3 := by
  intro s p hr hroom
  obtain ⟨u, hu, hoku⟩ := readRaw_of_ready (i := 3 * p) hr (by omega)
  obtain ⟨v, hv, hokv⟩ := readRaw_of_ready (i := 3 * p + 1) hr (by omega)
  obtain ⟨w, hw, hokw⟩ := readRaw_of_ready (i := 3 * p + 2) hr (by omega)
  refine ⟨wrap u v w, [u, v, w], ?_, hview u v w, rfl, ?_⟩
  · rintro y x rfl
    exact helem s y x u v w hoku hokv hokw
  · intro j hj
    obtain rfl | rfl | rfl : j = 0 ∨ j = 1 ∨ j = 2 := by omega
    · simp [hu]
    · simp [hv]
    · simp [hw]

/-- A bind of the element monad goes on with the answer on its left. -/
theorem ok_bind {α β : Type} (a : α) (k : α → Except Fault β) : (Except.ok a >>= k) = k a := rfl

theorem elementG8_copies : elementG8.copies 1 :=
  Element.copies_of_byte .grayscale8 (fun _ => rfl) fun _ _ _ _ hv => by simp [elementG8, hv, ok_bind]

theorem elementIdx8_copies : elementIdx8.copies 1 :=
  Element.copies_of_byte .indexed8 (fun _ => rfl) fun _ _ _ _ hv => by simp [elementIdx8, hv, ok_bind]

theorem elementRgb24_copies : elementRgb24.copies 3 :=
  Element.copies_of_triple .rgb24 (fun _ _ _ => rfl) fun _ _ _ _ _ _ hu hv hw => by
    simp [elementRgb24, hu, hv, hw, ok_bind]

theorem elementBgr24_copies : elementBgr24.copies 3 :=
  Element.copies_of_triple .bgr24 (fun _ _ _ => rfl) fun _ _ _ _ _ _ hu hv hw => by
    simp [elementBgr24, hu, hv, hw, ok_bind]

/-- A copying operation over a ready image of `k` bytes to an element leaves `RAW` as the byte view of `PIX`. -/
theorem assemble_byteView {elem : Element} {k : Nat} (hstable : elem.stable) (hcopy : elem.copies k) {s t : State}
    (hr : readyToAssemble s) (hsize : s.rawSize = k * s.pixCount) (h : s.assemble elem = .next t) {p j : Nat}
    (hp : p < s.pixCount) (hj : j < k) :
    ∃ e view, Memory.read t.pix p = some e ∧ Pixel.byteView e = some view ∧ view.length = k ∧
      view[j]? = Memory.read s.raw (k * p + j) := by
  have hroom (q : Nat) (hq : q < s.pixCount) : k * q + k ≤ s.rawSize := by
    rw [hsize]
    exact Nat.mul_le_mul_left k hq
  choose! val view hval using fun q hq => hcopy s q hr (hroom q hq)
  have hmade (y x : Nat) (hy : y < s.cfgHeight.toNat) (hx : x < s.cfgWidth.toNat) :
      elem s y x = .ok (val (s.pixIndex y x)) :=
    (hval _ (pixIndex_lt hr.2.2.1 hy hx)).1 y x rfl
  obtain ⟨m, a, b, hdone, -, hread⟩ := assemble_eq elem hstable val s hr hmade
  obtain rfl := Host.Outcome.next.inj (h.symm.trans hdone)
  obtain ⟨-, hview, hlen, hbytes⟩ := hval p hp
  exact ⟨val p, view p, by rw [State.complete_pix, hread, if_pos hp], hview, hlen, hbytes j hj⟩

/-- Settles O45: each of the four operations copies one or three bytes to an element. -/
theorem byteViewEqualsRaw : Obligations.ByteViewEqualsRaw := by
  rintro s t i k hr hsize (⟨rfl, rfl⟩ | ⟨rfl, rfl⟩ | ⟨rfl, rfl⟩ | ⟨rfl, rfl⟩) h p j hp hj
  · exact assemble_byteView elementG8_stable elementG8_copies hr hsize h hp hj
  · exact assemble_byteView elementIdx8_stable elementIdx8_copies hr hsize h hp hj
  · exact assemble_byteView elementRgb24_stable elementRgb24_copies hr hsize h hp hj
  · exact assemble_byteView elementBgr24_stable elementBgr24_copies hr hsize h hp hj

end Sys2Proof.Machine
end

section
/-! PROOFS. The two read ports of the stores (O51, O52): when a read is admitted, what it answers then, and that it
changes nothing. -/

namespace Sys2Proof.Machine

/-! ### The palette port -/

theorem step_of_readPal {s : State} {i : Nat} {rest : List HostMove} (h : s.pending = .readPal i :: rest) :
    step s = if (s.hostReadPal i).isSome then .next { s with pending := rest } else .refused .palReadRefused :=
  step_of_host h

theorem hostReadPal_of_admitted {s : State} {i : Nat} (h : s.pixValid = true ∧ i < s.palCount.toNat) :
    s.hostReadPal i = (Memory.read s.pal i).map PalEntry.portData := by
  simp [State.hostReadPal, h]

theorem hostReadPal_of_not_admitted {s : State} {i : Nat} (h : ¬ (s.pixValid = true ∧ i < s.palCount.toNat)) :
    s.hostReadPal i = none := by
  simpa [State.hostReadPal] using fun hv hi => absurd ⟨hv, hi⟩ h

/-- After a completed decode every entry below `PAL_COUNT` is there (R29). -/
theorem Inv.pal_of_valid {s : State} (hi : Inv s) (hv : s.pixValid = true) {i : Nat} (hlt : i < s.palCount.toNat) :
    ∃ e, Memory.read s.pal i = some e := by
  have hp : s.phase ≠ .fault := by simp [hi.flags.pixValid hv]
  exact Option.isSome_iff_exists.mp ((Memory.dense_read (hi.palette.dense hp) i).mpr hlt)

/-- Settles O51: an admitted read finds its entry, since the palette is dense below `PAL_COUNT`. -/
theorem paletteReadsAreAdmittedOnlyWhenValid : Obligations.PaletteReadsAreAdmittedOnlyWhenValid := by
  intro s i rest hi hp
  refine ⟨fun hadm => ?_, fun hnot => ?_⟩
  · obtain ⟨e, he⟩ := hi.pal_of_valid hadm.1 hadm.2
    have hread : s.hostReadPal i = some (PalEntry.portData e) := by
      rw [hostReadPal_of_admitted hadm, he, Option.map_some]
    exact ⟨by simp [step_of_readPal hp, hread], e, he, hread⟩
  · have hread : s.hostReadPal i = none := hostReadPal_of_not_admitted hnot
    exact ⟨hread, by simp [step_of_readPal hp, hread]⟩

/-! ### The pixel port -/

theorem step_of_readPix {s : State} {p : Nat} {rest : List HostMove} (h : s.pending = .readPix p :: rest) :
    step s = if (s.hostReadPix p).isSome then .next { s with pending := rest } else .refused .pixReadRefused :=
  step_of_host h

theorem hostReadPix_of_admitted {s : State} {p : Nat} (h : s.pixValid = true ∧ p < s.pixCount) :
    s.hostReadPix p = (Memory.read s.pix p).map Pixel.portData := by
  simp [State.hostReadPix, h]

theorem hostReadPix_of_not_admitted {s : State} {p : Nat} (h : ¬ (s.pixValid = true ∧ p < s.pixCount)) :
    s.hostReadPix p = none := by
  simpa [State.hostReadPix] using fun hv hp => absurd ⟨hv, hp⟩ h

/-- After a completed decode every element below `PIX_COUNT` is there, tagged with `FMT` (R31, R79). -/
theorem Inv.pix_of_valid {s : State} (hi : Inv s) (hv : s.pixValid = true) {p : Nat} (hlt : p < s.pixCount) :
    ∃ e, Memory.read s.pix p = some e ∧ Pixel.format e = s.fmt :=
  Option.map_eq_some_iff.mp ((hi.result hv).2 p hlt)

/-- R191: after a fault no result is valid. -/
theorem FlagsInv.not_valid_of_fault {s : State} (hf : FlagsInv s) (hp : s.phase = .fault) : ¬ s.pixValid = true := by
  intro hv
  simp [hf.pixValid hv] at hp

/-- Settles O52: an admitted read finds its element, since a valid result is complete; the word is written out for each
format. -/
theorem pixelReadsAreAdmittedOnlyWhenValid : Obligations.PixelReadsAreAdmittedOnlyWhenValid := by
  intro s p rest hi hp
  have hrefused (hnot : ¬ (s.pixValid = true ∧ p < s.pixCount)) :
      s.hostReadPix p = none ∧ step s = .refused .pixReadRefused := by
    have hread : s.hostReadPix p = none := hostReadPix_of_not_admitted hnot
    exact ⟨hread, by simp [step_of_readPix hp, hread]⟩
  refine ⟨fun hadm => ?_, hrefused, fun hfault => ?_⟩
  · obtain ⟨e, he, hfmt⟩ := hi.pix_of_valid hadm.1 hadm.2
    have hread : s.hostReadPix p = some (Pixel.portData e) := by
      rw [hostReadPix_of_admitted hadm, he, Option.map_some]
    refine ⟨by simp [step_of_readPix hp, hread], e, he, hfmt, ?_, ?_, ?_, ?_, ?_, ?_⟩
    · rintro v rfl
      exact hread.trans (congrArg some (setWidth_eq_ofNat rfl))
    · rintro v rfl
      exact hread.trans (congrArg some (setWidth_eq_ofNat rfl))
    · rintro v rfl
      exact hread.trans (congrArg some (setWidth_eq_ofNat rfl))
    · rintro r g b rfl
      exact hread
    · rintro b g r rfl
      exact hread
    · rintro r g b a rfl
      exact hread
  · exact (hrefused fun hadm => hi.flags.not_valid_of_fault hfault hadm.1).2

end Sys2Proof.Machine
end

section
/-! PROOFS. The decoder reads the encoding of R60, R61 and R70 to R73 (O14 to O17), and what selects an operation (O19). -/

namespace Sys2Proof.Machine

/-! ### The header -/

/-- R61: the seven fields are read back in stream order, and the bytes after the 28 are not looked at. -/
theorem decodeHeader_encode (width height depth length type cmapType cmapLength : Word) (rest : List Byte) :
    decodeHeader (encode (.hdr width height depth length type cmapType cmapLength) ++ rest) =
      some (.hdr width height depth length type cmapType cmapLength) := by
  simp only [decodeHeader, encode, List.append_assoc, takeWord_wordBytes, Option.bind_eq_bind, Option.bind_some]

/-! ### Tokens (R70 to R73): one equation for each way a byte sequence can begin -/

theorem decodeToken_lit {b : Byte} (rest : List Byte) (h : b ≠ Config.esc) : decodeToken (b :: rest) = .ok (.lit b) :=
  if_neg h

theorem decodeToken_esc0 (rest : List Byte) : decodeToken (Config.esc :: 0 :: rest) = .ok .esc0 := rfl

theorem decodeToken_run {c : Byte} (v : Byte) (rest : List Byte) (h : c ≠ 0) :
    decodeToken (Config.esc :: c :: v :: rest) = .ok (.run c v) := if_neg h

theorem decodeToken_nil : decodeToken [] = .error .streamEnd := rfl

theorem decodeToken_esc : decodeToken [Config.esc] = .error .streamEnd := rfl

theorem decodeToken_esc_count {c : Byte} (h : c ≠ 0) : decodeToken [Config.esc, c] = .error .streamEnd := if_neg h

/-! ### Decoding and encoding agree -/

/-- Settles O14: the words and tokens by their equations; every other operation is selected without a byte, or is the
one byte there. -/
theorem decodeOfEncodeIsTheOperation : Obligations.DecodeOfEncodeIsTheOperation := by
  intro i rest hwf
  cases i with
  | magic w => simp only [Instr.selection, decode, encode, takeWord_wordBytes]
  | hdr w h d l t c m => simp only [Instr.selection, decode, decodeHeader_encode]
  | lit b => exact decodeToken_lit rest (bne_iff_ne.mp hwf)
  | esc0 => exact decodeToken_esc0 rest
  | run c v => exact decodeToken_run v rest (bne_iff_ne.mp hwf)
  | detect | resolve | cmap | size | rawb => rfl
  | asmG1 | asmG8 | asmRgb24 | asmBgr24 | asmIdx8 | asmIdx1 | asmRgba32 => rfl

/-- A byte sequence that is a well-formed token and more begins with that token. -/
theorem beginsWith_token {i : Instr} (rest : List Byte) (hwf : i.wellFormed = true) (hsel : i.selection = .rle) :
    ∃ j tail, j.wellFormed = true ∧ j.selection = .rle ∧ encode i ++ rest = encode j ++ tail ∧
      decode .rle (encode i ++ rest) = .ok j :=
  ⟨i, rest, hwf, hsel, rfl, hsel ▸ decodeOfEncodeIsTheOperation i rest hwf⟩

/-- Settles O15: the split on the bytes that R72 looks at, the first against the escape byte and the second against 0. -/
theorem tokenEncodingIsTotal : Obligations.TokenEncodingIsTotal := by
  rintro (_ | ⟨b, rest⟩)
  · exact .inr ⟨.inl rfl, decodeToken_nil⟩
  by_cases hb : b = Config.esc
  case neg => exact .inl (beginsWith_token (i := .lit b) rest (bne_iff_ne.mpr hb) rfl)
  subst hb
  obtain _ | ⟨c, rest⟩ := rest
  · exact .inr ⟨.inr (.inl rfl), decodeToken_esc⟩
  by_cases hc : c = 0
  case pos =>
    subst hc
    exact .inl (beginsWith_token (i := .esc0) rest rfl rfl)
  obtain _ | ⟨v, rest⟩ := rest
  · exact .inr ⟨.inr (.inr ⟨c, hc, rfl⟩), decodeToken_esc_count hc⟩
  · exact .inl (beginsWith_token (i := .run c v) rest (bne_iff_ne.mpr hc) rfl)

/-- Settles O16: each length is the operation's `byteLength`. -/
theorem encodedLengths : Obligations.EncodedLengths :=
  ⟨Laws.EncodedLength.magic, Laws.EncodedLength.hdr, Laws.EncodedLength.rawb, Laws.EncodedLength.lit,
    Laws.EncodedLength.esc0, Laws.EncodedLength.run⟩

/-- A row of the table is read as the operation whose encoding its bytes are, where the row's length stands for that
operation's selection (log entry 17). -/
theorem decodeTableWord_of_encode {nbits w : Nat} {i : Instr} (hwf : i.wellFormed = true)
    (hsel : tableSel nbits = some i.selection) (hbytes : bigEndianBytes (nbits / 8) w = encode i) :
    decodeTableWord nbits w = some i := by
  simp only [decodeTableWord, hsel, tableBytes, hbytes, decodeOfEncodeIsTheOperation i _ hwf]

/-- Settles O17: each word is, in bytes, the encoding of its operation. -/
theorem wordsDecodeAsTheSpecEncodesThem : Obligations.WordsDecodeAsTheSpecEncodesThem :=
  ⟨decodeTableWord_of_encode rfl rfl (by decide), decodeTableWord_of_encode rfl rfl (by decide),
    decodeTableWord_of_encode rfl rfl (by decide), decodeTableWord_of_encode rfl rfl (by decide),
    decodeTableWord_of_encode rfl rfl (by decide)⟩

/-! ### Selection (R75) -/

theorem State.selection_of_rawCopy {s : State} (hp : s.phase = .decomp)
    (hm : RasType.decompMode s.cfgType = some .rawCopy) : s.selection = some .rawCopy := by
  simp only [State.selection, hp, hm]

theorem State.selection_of_rle {s : State} (hp : s.phase = .decomp)
    (hm : RasType.decompMode s.cfgType = some .rle) : s.selection = some .rle := by
  simp only [State.selection, hp, hm]

/-- R120: the three types whose bitmap is copied as it stands. -/
theorem RasType.decompMode_rawCopy {ty : RasType} (h : ty = .old ∨ ty = .standard ∨ ty = .rgb) :
    RasType.decompMode ty = some .rawCopy := by
  obtain rfl | rfl | rfl := h <;> rfl

/-- A resting phase selects nothing. -/
theorem State.selection_of_resting {s : State} (h : s.phase = .idle ∨ s.phase = .done ∨ s.phase = .fault) :
    s.selection = none := by
  obtain hp | hp | hp := h <;> simp only [State.selection, hp]

/-- Settles O19: the phase alone selects, and in `DECOMP` the mode of the type. -/
theorem phaseAndConfigurationSelect : Obligations.PhaseAndConfigurationSelect := by
  intro s
  refine ⟨fun hp => ?_, fun hp => ?_, fun hp => ?_, fun hp => ?_, fun hp => ?_,
    fun hp hty => State.selection_of_rawCopy hp (RasType.decompMode_rawCopy hty),
    fun hp hty => State.selection_of_rle hp (congrArg RasType.decompMode hty),
    fun hp => ?_, State.selection_of_resting⟩
  all_goals simp only [State.selection, hp]

end Sys2Proof.Machine
end

section
/-! PROOFS. The steps left of a command, and that every operation of the front end and of the decompressor, in its own
phase, answers a next state with fewer steps left (for O6). -/

namespace Sys2Proof.Machine

/-! ### Outcomes that are a next state with a property -/

/-- The outcome is a next state, and that state has the property. -/
def Answers (o : Out) (P : State → Prop) : Prop := ∃ t, o = .next t ∧ P t

theorem Answers.next {t : State} {P : State → Prop} (h : P t) : Answers (.next t) P := ⟨t, rfl, h⟩

theorem Answers.mono {o : Out} {P Q : State → Prop} (h : Answers o P) (hPQ : ∀ t, P t → Q t) : Answers o Q := by
  obtain ⟨t, ho, ht⟩ := h
  exact ⟨t, ho, hPQ t ht⟩

theorem Answers.ite {c : Prop} [Decidable c] {a b : Out} {P : State → Prop} (ha : c → Answers a P)
    (hb : ¬ c → Answers b P) : Answers (if c then a else b) P := by
  split
  · exact ha ‹_›
  · exact hb ‹_›

theorem Answers.consume {s : State} {n : Nat} {k : State → Out} {P : State → Prop} (hend : P s.raiseStreamEnd)
    (hk : s.ipos + n ≤ s.input.length → Answers (k { s with ipos := s.ipos + n }) P) : Answers (s.consume n k) P :=
  .ite hk fun _ => .next hend

theorem Answers.pull {s : State} {k : Byte → State → Out} {P : State → Prop} (hend : P s.raiseStreamEnd)
    (hk : ∀ b, s.ipos + 1 ≤ s.input.length → Answers (k b { s with ipos := s.ipos + 1 }) P) : Answers (s.pull k) P := by
  rcases hb : s.input[s.ipos]? with _ | b
  · rw [pull_none k (List.getElem?_eq_none_iff.mp hb)]
    exact .next hend
  · rw [pull_some k hb]
    exact hk b (List.getElem?_eq_some_iff.mp hb).1

theorem Answers.emit {s : State} {v : Byte} {k : State → Out} {P : State → Prop} (hroom : s.opos < s.rawSize)
    (hk : Answers (k { s with raw := Memory.write s.raw s.opos v, opos := s.opos + 1 }) P) :
    Answers (s.emit v k) P := by
  rwa [emit_of_lt v k hroom]

/-! ### The steps left -/

/-- How many bytes are left to pull. -/
def State.left (s : State) : Nat := s.input.length - s.ipos

/-- How many bytes a token under way may still emit without a pull (R122). -/
def State.runBudget (s : State) : Nat :=
  match s.rstate with
  | .rByte => 0
  | .rCount => 256
  | .rValue => s.rcount.toNat
  | .rRun => s.rcount.toNat

/-- A bound on the steps to a resting phase: one for each phase to come, one for each byte left, and those of a token
under way. -/
def State.stepsLeft (s : State) : Nat :=
  match s.phase with
  | .magic => s.left + 7
  | .header => s.left + 6
  | .resolve => s.left + 5
  | .cmap => s.left + 4
  | .size => s.left + 3
  | .decomp => s.left + s.runBudget + 2
  | .assemble => 1
  | .idle => 0
  | .done => 0
  | .fault => 0

theorem State.left_advance {s : State} {n : Nat} (h : s.ipos + n ≤ s.input.length) :
    ({ s with ipos := s.ipos + n } : State).left + n = s.left := by
  show s.input.length - (s.ipos + n) + n = s.input.length - s.ipos
  omega

theorem State.stepsLeft_of_decomp {s : State} (hp : s.phase = .decomp) :
    s.stepsLeft = s.left + s.runBudget + 2 := by simp only [State.stepsLeft, hp]

theorem State.stepsLeft_pos {s : State} (hb : Phase.isBusy s.phase = true) : 0 < s.stepsLeft := by
  cases hp : s.phase <;> simp [hp, Phase.isBusy, State.stepsLeft] at hb ⊢

/-- The entry to `DECOMP` abandons any token under way (R120). -/
theorem State.stepsLeft_enterDecomp_le {s : State} (hp : s.phase = .decomp) :
    s.enterDecomp.stepsLeft ≤ s.left + 2 := by
  obtain ⟨-, he⟩ | ⟨-, -, he⟩ | ⟨-, -, he⟩ := s.enterDecomp_cases <;> rw [he]
  · exact Nat.zero_le _
  · exact Nat.le_add_left 1 _
  · exact (State.stepsLeft_of_decomp (s := s.started) hp).le

/-- Entering a phase costs no step (log entry 24). -/
theorem State.stepsLeft_enter_le (s : State) : s.enter.stepsLeft ≤ s.stepsLeft := by
  unfold State.enter
  split
  case h_1 hp => simp only [State.stepsLeft, hp, State.left, le_refl]
  case h_2 hp =>
    have := State.stepsLeft_enterDecomp_le hp
    rw [State.stepsLeft_of_decomp hp]
    omega
  case h_3 hp => simp only [State.stepsLeft, hp, State.enterAssemble_phase, le_refl]
  all_goals exact le_rfl

theorem Answers.enterPhase {o : Out} {n : Nat} (p : Phase) (h : Answers o (·.stepsLeft < n)) :
    Answers (enterPhase p o) (·.stepsLeft < n) := by
  obtain ⟨t, rfl, ht⟩ := h
  refine .next ?_
  split
  · exact ht
  · exact Nat.lt_of_le_of_lt t.stepsLeft_enter_le ht

/-! ### The front end -/

theorem execMagic_answers {s : State} (w : Word) (hp : s.phase = .magic) :
    Answers (execMagic w s) (·.stepsLeft < s.stepsLeft) := by
  have hs : s.stepsLeft = s.left + 7 := by simp only [State.stepsLeft, hp]
  have hpos : 0 < s.stepsLeft := by omega
  refine .consume hpos fun hl => .ite (fun _ => .next ?_) fun _ => .next hpos
  have hleft := State.left_advance hl
  show ({ s with ipos := s.ipos + 4 } : State).left + 6 < _
  omega

theorem execHdr_answers {s : State} (width height depth length type cmapType cmapLength : Word)
    (hp : s.phase = .header) :
    Answers (execHdr width height depth length type cmapType cmapLength s) (·.stepsLeft < s.stepsLeft) := by
  have hs : s.stepsLeft = s.left + 6 := by simp only [State.stepsLeft, hp]
  have hpos : 0 < s.stepsLeft := by omega
  refine .consume hpos fun hl => ?_
  have hleft := State.left_advance hl
  dsimp only
  split
  · refine .next ?_
    show ({ s with ipos := s.ipos + Config.hdrBytes } : State).left + 5 < _
    omega
  · exact .next hpos

theorem execResolve_answers {s : State} (hp : s.phase = .resolve) :
    Answers (execResolve s) (·.stepsLeft < s.stepsLeft) := by
  have hs : s.stepsLeft = s.left + 5 := by simp only [State.stepsLeft, hp]
  have hpos : 0 < s.stepsLeft := by omega
  unfold execResolve
  dsimp only
  split
  · refine .next ?_
    show s.left + 4 < _
    omega
  · exact .next hpos

theorem loadPalette_answers {s : State} (n : Nat) (hp : s.phase = .cmap) :
    Answers (s.loadPalette n) (·.stepsLeft < s.stepsLeft) := by
  have hs : s.stepsLeft = s.left + 4 := by simp only [State.stepsLeft, hp]
  have hpos : 0 < s.stepsLeft := by omega
  unfold State.loadPalette
  refine .consume hpos fun hl => .next ?_
  have hleft := State.left_advance hl
  show ({ s with ipos := s.ipos + s.cfgCmapLength.toNat } : State).left + 3 < _
  omega

theorem execCmap_answers {s : State} (hp : s.phase = .cmap) : Answers (execCmap s) (·.stepsLeft < s.stepsLeft) := by
  have hs : s.stepsLeft = s.left + 4 := by simp only [State.stepsLeft, hp]
  have hpos : 0 < s.stepsLeft := by omega
  have hskip : Answers (.next { s with phase := .size }) (·.stepsLeft < s.stepsLeft) := by
    refine .next ?_
    show s.left + 3 < _
    omega
  unfold execCmap
  split
  · exact .ite (fun _ => .ite (fun _ => .next hpos) fun _ => loadPalette_answers _ hp) fun _ => hskip
  · exact hskip
  · exact .next hpos
  · exact .next hpos

/-- `SIZE` with the entry to `DECOMP`. -/
theorem enterPhase_execSize_answers {s : State} (hp : s.phase = .size) :
    Answers (enterPhase s.phase (execSize s)) (·.stepsLeft < s.stepsLeft) := by
  have hs : s.stepsLeft = s.left + 3 := by simp only [State.stepsLeft, hp]
  have hpos : 0 < s.stepsLeft := by omega
  unfold execSize
  dsimp only
  split
  · exact .enterPhase _ (.next hpos)
  · rw [enterPhase_new (by simp [hp])]
    have hentry : (State.enterDecomp { s.sized with phase := .decomp }).stepsLeft ≤ s.left + 2 :=
      State.stepsLeft_enterDecomp_le rfl
    refine .next ?_
    show (State.enterDecomp { s.sized with phase := .decomp }).stepsLeft < _
    omega

/-! ### The decompressor -/

/-- A step of `DECOMP` goes on to `ASSEMBLE`, or uses up a byte of the stream or of the run under way. -/
theorem State.stepsLeft_lt_of_decomp {s u : State} (hp : s.phase = .decomp)
    (h : u.phase = .assemble ∨ (u.phase = .decomp ∧ u.left + u.runBudget < s.left + s.runBudget)) :
    u.stepsLeft < s.stepsLeft := by
  rw [State.stepsLeft_of_decomp hp]
  obtain hq | ⟨hq, hlt⟩ := h
  · simp only [State.stepsLeft, hq]
    omega
  · rw [State.stepsLeft_of_decomp hq]
    omega

theorem State.stepsLeft_afterToken_lt {s u : State} (hp : s.phase = .decomp) (hq : u.phase = .decomp)
    (h : u.left < s.left + s.runBudget) : u.afterToken.stepsLeft < s.stepsLeft := by
  refine State.stepsLeft_lt_of_decomp hp ?_
  unfold State.afterToken
  split
  · exact .inl rfl
  · exact .inr ⟨hq, h⟩

section
variable {s : State} (hp : s.phase = .decomp) (hroom : s.opos < s.rawSize)
include hp

theorem State.stepsLeft_raiseStreamEnd_lt : s.raiseStreamEnd.stepsLeft < s.stepsLeft := by
  rw [State.stepsLeft_of_decomp hp]
  exact Nat.succ_pos _

include hroom

/-- The last emit of a token whose bytes have been pulled. -/
theorem emit_afterToken_answers {n : Nat} (hn : 0 < n) (hl : s.ipos + n ≤ s.input.length) (v : Byte) :
    Answers (State.emit { s with ipos := s.ipos + n } v fun s => .next s.afterToken) (·.stepsLeft < s.stepsLeft) := by
  have hleft := State.left_advance hl
  refine .emit hroom (.next (State.stepsLeft_afterToken_lt hp hp ?_))
  show ({ s with ipos := s.ipos + n } : State).left < _
  omega

theorem execRawb_answers (b : Byte) : Answers (execRawb b s) (·.stepsLeft < s.stepsLeft) := by
  refine .consume (State.stepsLeft_raiseStreamEnd_lt hp) fun hl =>
    .emit hroom (.next (State.stepsLeft_lt_of_decomp hp ?_))
  have hleft := State.left_advance hl
  split
  · exact .inl rfl
  · refine .inr ⟨hp, ?_⟩
    show ({ s with ipos := s.ipos + 1 } : State).left + s.runBudget < _
    omega

theorem execLit_answers (b : Byte) : Answers (execLit b s) (·.stepsLeft < s.stepsLeft) :=
  .consume (State.stepsLeft_raiseStreamEnd_lt hp) fun hl => emit_afterToken_answers hp hroom Nat.one_pos hl b

theorem execEsc0_answers : Answers (execEsc0 s) (·.stepsLeft < s.stepsLeft) :=
  .consume (State.stepsLeft_raiseStreamEnd_lt hp) fun hl => emit_afterToken_answers hp hroom Nat.two_pos hl _

theorem execRun_answers (c v : Byte) : Answers (execRun c v s) (·.stepsLeft < s.stepsLeft) := by
  refine .consume (State.stepsLeft_raiseStreamEnd_lt hp) fun hl => ?_
  have hleft := State.left_advance hl
  obtain ⟨m, he, -⟩ := emitRun_eq (runCount c).toNat { s with ipos := s.ipos + 3, rcount := runCount c, rvalue := v }
    (by rw [runCount_toNat]; omega) hroom
  refine ⟨_, he, State.stepsLeft_lt_of_decomp hp ?_⟩
  dsimp only
  split
  · exact .inl rfl
  · refine .inr ⟨hp, ?_⟩
    show ({ s with ipos := s.ipos + 3 } : State).left + 0 < _
    omega

/-- One transition inside a token (R122): two of the three states pull a byte, and the third uses up a byte of the
run. -/
theorem rleTransition_answers (hrs : s.rstate ≠ .rByte) (hrun : s.runLeft) :
    Answers (rleTransition s) (·.stepsLeft < s.stepsLeft) := by
  have hend := State.stepsLeft_raiseStreamEnd_lt hp
  unfold rleTransition
  split
  case h_1 h => exact absurd h hrs
  case h_2 h =>
    refine .pull hend fun c hl => .ite (fun _ => emit_afterToken_answers hp hroom Nat.one_pos hl _) fun _ =>
      .next (State.stepsLeft_lt_of_decomp hp (.inr ⟨hp, ?_⟩))
    have hleft := State.left_advance hl
    have hbudget : s.runBudget = 256 := by simp only [State.runBudget, h]
    have hcount := runCount_toNat c
    have := c.isLt
    show ({ s with ipos := s.ipos + 1 } : State).left + (runCount c).toNat < _
    omega
  case h_3 h =>
    refine .pull hend fun b hl => .next (State.stepsLeft_lt_of_decomp hp (.inr ⟨hp, ?_⟩))
    have hleft := State.left_advance hl
    have hbudget : s.runBudget = s.rcount.toNat := by simp only [State.runBudget, h]
    show ({ s with ipos := s.ipos + 1 } : State).left + s.rcount.toNat < _
    omega
  case h_4 h =>
    obtain ⟨hpos, hmax⟩ := hrun (.inr h)
    have hbudget : s.runBudget = s.rcount.toNat := by simp only [State.runBudget, h]
    refine .emit hroom (.ite (fun _ => .next (State.stepsLeft_afterToken_lt hp hp ?_)) fun _ => .ite
      (fun _ => .next (State.stepsLeft_lt_of_decomp hp (.inr ⟨hp, ?_⟩))) fun _ =>
        .next (State.stepsLeft_lt_of_decomp hp (.inr ⟨hp, ?_⟩)))
    · show s.left < _
      omega
    · show s.left + 0 < _
      omega
    · have hcount : (s.rcount - 1).toNat = s.rcount.toNat - 1 := BitVec.toNat_sub_of_le (by bv_omega)
      have hnew : ({ s with rcount := s.rcount - 1 } : State).runBudget = (s.rcount - 1).toNat := by
        simp only [State.runBudget, h]
      show s.left + ({ s with rcount := s.rcount - 1 } : State).runBudget < _
      omega

end

end Sys2Proof.Machine
end

section
/-! PROOFS. Every command ends (O6): the assembler always completes, so in a busy phase every step of the sequencer
answers a next state with fewer steps left. -/

namespace Sys2Proof.Machine

/-! ### The assembler -/

/-- The operation makes an element at every row and column of the image. -/
def Element.covers (elem : Element) (s : State) : Prop :=
  ∀ y x, y < s.cfgHeight.toNat → x < s.cfgWidth.toNat → ∃ e, elem s y x = .ok e

theorem pixIndex_div_width {s : State} {y x : Nat} (hx : x < s.cfgWidth.toNat) :
    s.pixIndex y x / s.cfgWidth.toNat = y := by
  rw [State.pixIndex, Nat.mul_comm, Nat.mul_add_div (Nat.zero_lt_of_lt hx), Nat.div_eq_of_lt hx, Nat.add_zero]

/-- An index inside the image stands for one row and one column (R31). -/
theorem pixIndex_inj {s : State} {y x y' x' : Nat} (hx : x < s.cfgWidth.toNat) (hx' : x' < s.cfgWidth.toNat)
    (h : s.pixIndex y x = s.pixIndex y' x') : y = y' ∧ x = x' := by
  have hrow : y = y' := by rw [← pixIndex_div_width (y := y) hx, h, pixIndex_div_width hx']
  subst hrow
  exact ⟨rfl, Nat.add_left_cancel h⟩

/-- An operation that covers a ready image completes. -/
theorem assemble_answers {elem : Element} {s : State} (hstable : elem.stable) (hr : readyToAssemble s)
    (hcover : elem.covers s) : Answers (s.assemble elem) (·.stepsLeft = 0) := by
  have hval (p : Nat) : ∃ e, ∀ y x, y < s.cfgHeight.toNat → x < s.cfgWidth.toNat → s.pixIndex y x = p →
      elem s y x = .ok e := by
    by_cases hp : ∃ y x, y < s.cfgHeight.toNat ∧ x < s.cfgWidth.toNat ∧ s.pixIndex y x = p
    · obtain ⟨y, x, hy, hx, rfl⟩ := hp
      obtain ⟨e, he⟩ := hcover y x hy hx
      refine ⟨e, fun y' x' _ hx' h => ?_⟩
      obtain ⟨rfl, rfl⟩ := pixIndex_inj hx' hx h
      exact he
    · exact ⟨default, fun y x hy hx h => absurd ⟨y, x, hy, hx, h⟩ hp⟩
  choose val hval using hval
  obtain ⟨m, a, b, hdone, -⟩ := assemble_eq elem hstable val s hr fun y x hy hx => hval _ y x hy hx rfl
  exact ⟨_, hdone, rfl⟩

/-- An operation that copies `k` bytes to an element covers an image of `k` bytes to a pixel. -/
theorem Element.copies.covers {elem : Element} {k : Nat} {s : State} (hc : elem.copies k) (hr : readyToAssemble s)
    (hsize : s.rawSize = k * s.pixCount) : elem.covers s := by
  intro y x hy hx
  have hlt : s.pixIndex y x < s.pixCount := pixIndex_lt hr.2.2.1 hy hx
  obtain ⟨e, -, he, -⟩ := hc s (s.pixIndex y x) hr (by rw [hsize]; exact Nat.mul_le_mul_left k hlt)
  exact ⟨e, he y x rfl⟩

theorem elementRgba32_covers {s : State} (hr : readyToAssemble s) (hsize : s.rawSize = 4 * s.pixCount) :
    elementRgba32.covers s := by
  intro y x hy hx
  have hlt : s.pixIndex y x < s.pixCount := pixIndex_lt hr.2.2.1 hy hx
  obtain ⟨pad, -, hpad⟩ := readRaw_of_ready (i := 4 * s.pixIndex y x) hr (by omega)
  obtain ⟨b1, -, h1⟩ := readRaw_of_ready (i := 4 * s.pixIndex y x + 1) hr (by omega)
  obtain ⟨b2, -, h2⟩ := readRaw_of_ready (i := 4 * s.pixIndex y x + 2) hr (by omega)
  obtain ⟨b3, -, h3⟩ := readRaw_of_ready (i := 4 * s.pixIndex y x + 3) hr (by omega)
  exact ⟨_, by simp only [elementRgba32, hpad, h1, h2, h3, ok_bind]; rfl⟩

/-- A bitmap bit inside a ready image of depth 1 can be read. -/
theorem rowBit_of_ready {s : State} (hr : readyToAssemble s) (hw : s.cfgWidth.toNat ≤ 8 * s.rowBytes)
    (hsize : s.rawSize = s.rowBytes * s.cfgHeight.toNat) {y x : Nat} (hy : y < s.cfgHeight.toNat)
    (hx : x < s.cfgWidth.toNat) : ∃ bit, s.rowBit y x = .ok bit := by
  obtain ⟨b, -, hb⟩ := readRaw_of_ready hr (rowByte_lt hw hsize hy hx)
  exact ⟨_, by simp only [State.rowBit, hb, ok_bind]; rfl⟩

/-- The invariant at the entry to `ASSEMBLE` gives a ready image. -/
theorem Inv.readyToAssemble {s : State} (hi : Inv s) (hp : s.phase = .assemble) : readyToAssemble s := by
  obtain ⟨-, hdense, hax, hay⟩ := hi.assemble.raw hp
  obtain ⟨-, -, hcount, -⟩ := hi.sizes (.inr hp)
  exact ⟨hax, hay, hcount, fun i h => (Memory.dense_read hdense i).mpr h⟩

/-- R95 at the depths other than 1: so many bytes to a pixel. -/
theorem Inv.rawSize_of_bytes {s : State} (hi : Inv s) (hp : s.phase = .assemble) {d : Nat}
    (hd : s.cfgDepth.toNat = d) (hne : d ≠ 1) : s.rawSize = bytesPerPixel d * s.pixCount := by
  obtain ⟨-, hraw, hcount, -⟩ := hi.sizes (.inr hp)
  rw [hraw, hd, rawSizeOf, if_neg hne, hcount, Nat.mul_comm]

/-- R95 at depth 1: rows of whole bytes that hold the width. -/
theorem Inv.rows_of_bits {s : State} (hi : Inv s) (hp : s.phase = .assemble) (hd : s.cfgDepth.toNat = 1) :
    s.cfgWidth.toNat ≤ 8 * s.rowBytes ∧ s.rawSize = s.rowBytes * s.cfgHeight.toNat := by
  obtain ⟨hrow, hraw, -⟩ := hi.sizes (.inr hp)
  rw [hd] at hrow hraw
  rw [hraw, rawSizeOf, if_pos rfl, ← hrow]
  refine ⟨?_, rfl⟩
  rw [hrow, rowBytesOf, if_pos rfl]
  omega

/-- R150, R159: in `ASSEMBLE` the format and the depth name an operation, and it covers the image. -/
theorem Inv.assembly {s : State} (hi : Inv s) (hp : s.phase = .assemble) :
    ∃ i elem, decodeAsm s.fmt s.cfgDepth = .ok i ∧ exec i s = s.assemble elem ∧ elem.stable ∧ elem.covers s := by
  have hr := hi.readyToAssemble hp
  obtain ⟨-, hfmt⟩ := hi.format (.inr (.inr (.inr hp)))
  obtain ⟨hd, hf⟩ | ⟨hd, hf⟩ | ⟨hd, hf⟩ | ⟨hd, hf⟩ := resolveFormat_cases hfmt
  · have hsize := hi.rawSize_of_bytes hp (d := 24) (by rw [hd]; rfl) (by decide)
    obtain hf | hf := hf <;> rw [hf, hd]
    · exact ⟨_, _, rfl, exec_asmRgb24 s, elementRgb24_stable, elementRgb24_copies.covers hr hsize⟩
    · exact ⟨_, _, rfl, exec_asmBgr24 s, elementBgr24_stable, elementBgr24_copies.covers hr hsize⟩
  · have hsize := hi.rawSize_of_bytes hp (d := 32) (by rw [hd]; rfl) (by decide)
    rw [hf, hd]
    exact ⟨_, _, rfl, exec_asmRgba32 s, elementRgba32_stable, elementRgba32_covers hr hsize⟩
  · have hsize := hi.rawSize_of_bytes hp (d := 8) (by rw [hd]; rfl) (by decide)
    obtain hf | hf := hf <;> rw [hf, hd]
    · exact ⟨_, _, rfl, exec_asmIdx8 s, elementIdx8_stable, elementIdx8_copies.covers hr hsize⟩
    · exact ⟨_, _, rfl, exec_asmG8 s, elementG8_stable, elementG8_copies.covers hr hsize⟩
  · obtain ⟨hw, hsize⟩ := hi.rows_of_bits hp (by rw [hd]; rfl)
    obtain hf | hf := hf <;> rw [hf, hd]
    · refine ⟨_, _, rfl, exec_asmIdx1 s, elementIdx1_stable, fun y x hy hx => ?_⟩
      obtain ⟨bit, hbit⟩ := rowBit_of_ready hr hw hsize hy hx
      exact ⟨_, by simp only [elementIdx1, hbit, ok_bind]; rfl⟩
    · refine ⟨_, _, rfl, exec_asmG1 s, elementG1_stable, fun y x hy hx => ?_⟩
      obtain ⟨bit, hbit⟩ := rowBit_of_ready hr hw hsize hy hx
      exact ⟨_, by simp only [elementG1, hbit, ok_bind]; rfl⟩

/-! ### The sequencer -/

/-- Only the assembler's table has pairs without an operation (R150). -/
theorem decode_noAssembly {sel : Sel} {bytes : List Byte} (h : decode sel bytes = .error .noAssembly) :
    ∃ f d, sel = .asm f d := by
  cases sel with
  | asm f d => exact ⟨f, d, rfl⟩
  | rle =>
    simp only [decode, decodeToken] at h
    repeat' split at h
    all_goals cases h
  | magic | header | rawCopy =>
    simp only [decode] at h
    split at h <;> cases h
  | detect | resolve | cmap | size => cases h

theorem State.selection_asm {s : State} {f : PixelFormat} {d : Word} (h : s.selection = some (.asm f d)) :
    s.phase = .assemble := by
  cases hp : s.phase with
  | assemble => rfl
  | decomp =>
    obtain h' | h' := State.selection_decomp hp h <;> cases h'
  | _ => simp [State.selection, hp] at h

/-- The selected operation, with the phase entry after it, answers a state with fewer steps left. -/
theorem enterPhase_exec_answers {s : State} {sel : Sel} {i : Instr} (hi : Inv s) (hsel : s.selection = some sel)
    (hd : decode sel s.remaining = .ok i) : Answers (enterPhase s.phase (exec i s)) (·.stepsLeft < s.stepsLeft) := by
  have hs := hsel
  unfold State.selection at hs
  split at hs
  case h_2 hp =>
    cases hs
    obtain ⟨w, rfl⟩ := decode_magic_ok hd
    exact (execMagic_answers w hp).enterPhase _
  case h_3 hp =>
    cases hs
    obtain ⟨w, h, d, l, ty, cm, m, rfl⟩ := decode_header_ok hd
    exact (execHdr_answers w h d l ty cm m hp).enterPhase _
  case h_4 hp =>
    cases hs
    cases hd
    exact (execResolve_answers hp).enterPhase _
  case h_5 hp =>
    cases hs
    cases hd
    exact (execCmap_answers hp).enterPhase _
  case h_6 hp =>
    cases hs
    cases hd
    exact enterPhase_execSize_answers hp
  case h_7 hp =>
    obtain ⟨hroom, -⟩ := hi.decomp hp
    obtain rfl | rfl := State.selection_decomp hp hsel
    · obtain ⟨b, rfl⟩ := decode_rawCopy_ok hd
      exact (execRawb_answers hp hroom b).enterPhase _
    · obtain ⟨b, rfl⟩ | rfl | ⟨c, v, rfl⟩ := decodeToken_cases hd
      · exact (execLit_answers hp hroom b).enterPhase _
      · exact (execEsc0_answers hp hroom).enterPhase _
      · exact (execRun_answers hp hroom c v).enterPhase _
  case h_8 hp =>
    cases hs
    obtain ⟨j, elem, hj, he, hstable, hcover⟩ := hi.assembly hp
    cases hj.symm.trans hd
    have hpos : 0 < s.stepsLeft := State.stepsLeft_pos (by rw [hp]; rfl)
    rw [he]
    exact ((assemble_answers hstable (hi.readyToAssemble hp) hcover).mono fun t ht => ht ▸ hpos).enterPhase _
  all_goals cases hs

/-- R96, R159: in a busy phase every step of the sequencer answers a state with fewer steps left. -/
theorem seqStep_answers {s : State} (hi : Inv s) (hb : Phase.isBusy s.phase = true) :
    Answers (seqStep s) (·.stepsLeft < s.stepsLeft) := by
  have hpos := State.stepsLeft_pos hb
  cases hm : s.midToken with
  | true =>
    rw [seqStep_of_midToken hm]
    simp only [State.midToken, Bool.and_eq_true, beq_iff_eq, bne_iff_ne] at hm
    obtain ⟨⟨hp, -⟩, hrs⟩ := hm
    obtain ⟨hroom, -, hrun, -⟩ := hi.decomp hp
    exact (rleTransition_answers hp hroom hrs hrun).enterPhase _
  | false =>
    cases hsel : s.selection with
    | none => exact ⟨s.raise .unsupportedType, by simp [seqStep, hb, hm, hsel], hpos⟩
    | some sel =>
      cases hd : decode sel s.remaining with
      | ok i =>
        rw [seqStep_of_decode hb hm hsel hd]
        exact enterPhase_exec_answers hi hsel hd
      | error r =>
        cases r with
        | streamEnd => exact ⟨s.raiseStreamEnd, seqStep_of_streamEnd hb hm hsel hd, hpos⟩
        | noAssembly =>
          obtain ⟨f, d, rfl⟩ := decode_noAssembly hd
          have hp := State.selection_asm hsel
          obtain ⟨i, -, hok, -⟩ := hi.assembly hp
          rw [State.selection, hp] at hsel
          cases hsel
          cases hok.symm.trans hd

/-! ### Whole commands -/

theorem DecompMove.pending {s t : State} (h : DecompMove s t) : t.pending = s.pending := by rw [h.frame]

/-- The sequencer makes no move of the host. -/
theorem SeqMove.pending {s t : State} (h : SeqMove s t) : t.pending = s.pending := by
  cases h with
  | decomp t _ hd => exact hd.pending
  | decompLast t _ hd => exact hd.pending
  | _ => rfl

/-- A busy phase is followed by a busy one, `DONE` or `FAULT` (R20). -/
theorem SeqMove.busy_or_ended {s t : State} (hb : Phase.isBusy s.phase = true) (h : SeqMove s t) :
    Phase.isBusy t.phase = true ∨ t.phase = .done ∨ t.phase = .fault := by
  have hf := h.phaseFollows
  cases hq : t.phase with
  | idle => cases hp : s.phase <;> simp [hp, hq, Machine.phaseFollows, Phase.isBusy] at hb hf
  | done => exact .inr (.inl rfl)
  | fault => exact .inr (.inr rfl)
  | _ => exact .inl rfl

/-- A run goes on from the state that its first step answers. -/
theorem run_succ {M : Host.Core} {s t : M.State} (n : Nat) (h : M.step s = .next t) : M.run (n + 1) s = M.run n t := by
  rw [Host.Core.run, h]

/-- A command ends within the steps left. -/
theorem run_ends (k : Nat) {s : State} (hi : Inv s) (hpend : s.pending = []) (hb : Phase.isBusy s.phase = true)
    (hk : s.stepsLeft ≤ k) :
    ∃ n t, n ≤ k ∧ Host.Core.run Sys2Proof.core n s = .next t ∧ (t.phase = .done ∨ t.phase = .fault) := by
  induction k generalizing s with
  | zero => exact absurd (State.stepsLeft_pos hb) (Nat.not_lt.mpr hk)
  | succ k ih =>
    obtain ⟨u, hu, hlt⟩ := seqStep_answers hi hb
    have hm : SeqMove s u := seqStep_move hu
    have hstep : Sys2Proof.core.step s = .next u := (step_of_idle_host hpend).trans hu
    obtain hbusy | hend := hm.busy_or_ended hb
    · obtain ⟨n, t, hn, hrun, hend⟩ := ih (hm.inv hi) (hm.pending.trans hpend) hbusy (by omega)
      exact ⟨n + 1, t, Nat.succ_le_succ hn, (run_succ n hstep).trans hrun, hend⟩
    · exact ⟨1, u, Nat.succ_le_succ (Nat.zero_le k), run_succ 0 hstep, hend⟩

/-- A run under way has at most 256 bytes left (R122), and no more than seven phases are to come. -/
theorem Inv.stepsLeft_le {s : State} (hi : Inv s) : s.stepsLeft ≤ s.left + 264 := by
  cases hp : s.phase with
  | decomp =>
    obtain ⟨-, -, hrun, -⟩ := hi.decomp hp
    have hbudget : s.runBudget ≤ 256 := by
      unfold State.runBudget
      split
      case h_1 => exact Nat.zero_le _
      case h_2 => exact le_rfl
      case h_3 h => exact (hrun (.inl h)).2
      case h_4 h => exact (hrun (.inr h)).2
    rw [State.stepsLeft_of_decomp hp]
    omega
  | _ => simp only [State.stepsLeft, hp]; omega

/-- Settles O6: every step has fewer steps left, and the invariant bounds the steps left at the start. -/
theorem everyCommandReachesDoneOrFault : Obligations.EveryCommandReachesDoneOrFault :=
  fun s hi hpend hb => run_ends (s.left + 264) hi hpend hb hi.stepsLeft_le

end Sys2Proof.Machine
end

section
/-! PROOFS. The front end, operation by operation (O22 to O25, O27 to O30), and the acceptance of a command (O46). -/

namespace Sys2Proof.Machine

/-! ### DETECT and MAGIC (R90, R91) -/

theorem wordBytes_magic : wordBytes Config.magic = [0x59, 0xA6, 0x6A, 0x95] := by decide

/-- A peek answers these bytes exactly where they come next (R6). -/
theorem peek_eq_some_iff (s : State) {bytes : List Byte} (hpos : 0 < bytes.length) :
    s.peek bytes.length = some bytes ↔ ∃ rest, s.input.drop s.ipos = bytes ++ rest := by
  unfold State.peek
  constructor
  · intro h
    split at h
    · have htake := Option.some.inj h
      exact ⟨_, (List.take_append_drop _ _).symm.trans (congrArg (· ++ _) htake)⟩
    · cases h
  · rintro ⟨rest, h⟩
    have hlen := congrArg List.length h
    rw [List.length_drop, List.length_append] at hlen
    rw [if_pos (by omega), h, List.take_left]

/-- Settles O22: the answer is the comparison with what a peek of four bytes gives. -/
theorem detectAnswersAndConsumesNothing : Obligations.DetectAnswersAndConsumesNothing := by
  intro s
  refine ⟨s.peek 4 == some (wordBytes Config.magic), rfl, ?_⟩
  rw [beq_iff_eq, wordBytes_magic]
  exact peek_eq_some_iff s (bytes := [0x59, 0xA6, 0x6A, 0x95]) (by decide)

/-- A fault taken after the stream position has moved (U7). -/
theorem raises_raise_at (s : State) (i : Nat) (c : FaultCause) :
    raises (.next (({ s with ipos := i } : State).raise c)) s (causeKind c) c :=
  raises_raise { s with ipos := i } c

/-- Operations that need more bytes than are left. -/
theorem raises_consume_of_lt {s : State} {n : Nat} (k : State → Out) (h : s.input.length < s.ipos + n) :
    raises (s.consume n k) s .invalidData .streamEnd := by
  rw [consume_of_lt k h]
  exact raises_raiseStreamEnd s

theorem execMagic_of_le {s : State} (w : Word) (hl : s.ipos + 4 ≤ s.input.length) :
    execMagic w s =
      if w = 0x59A66A95 then .next { s with ipos := s.ipos + 4, phase := .header }
      else .next (({ s with ipos := s.ipos + 4 } : State).raise .badMagic) := consume_of_le _ hl

/-- Settles O23: the two ways past the pull of four bytes, and the end of the stream. -/
theorem magicChecksFourBytes : Obligations.MagicChecksFourBytes := by
  refine fun w s => ⟨fun hl hw => ?_, fun hl hw => ?_, fun hl => ?_⟩
  · rw [exec_magic, execMagic_of_le w hl, if_pos hw]
  · rw [exec_magic, execMagic_of_le w hl, if_neg hw]
    exact raises_raise_at s _ .badMagic
  · rw [exec_magic, execMagic]
    exact raises_consume_of_lt _ hl

/-- No phase is entered after a fault. -/
theorem raises.enterPhase {o : Out} {s : State} {k : FaultKind} {c : FaultCause} (p : Phase) (h : raises o s k c) :
    raises (enterPhase p o) s k c := by
  obtain ⟨t, rfl, hfault, hcfg⟩ := h
  obtain ⟨-, -, hp, -⟩ := id hfault
  have he : Machine.enterPhase p (.next t) = .next t := by simp [Machine.enterPhase, State.enter, hp]
  exact ⟨t, he, hfault, hcfg⟩

theorem decode_magic_cons (m0 m1 m2 m3 : Byte) (rest : List Byte) :
    decode .magic ([m0, m1, m2, m3] ++ rest) = .ok (.magic (u32be m0 m1 m2 m3)) := rfl

/-- Four bytes are the magic word exactly when they are its bytes. -/
theorem u32be_eq_magic_iff (m0 m1 m2 m3 : Byte) :
    u32be m0 m1 m2 m3 = 0x59A66A95 ↔ [m0, m1, m2, m3] = [0x59, 0xA6, 0x6A, 0x95] := by
  constructor <;> intro h
  · rw [← wordBytes_u32be, h, ← wordBytes_magic]
    rfl
  · cases h
    rfl

theorem step_of_magic {s : State} (hp : s.phase = .magic) (hpend : s.pending = []) {m0 m1 m2 m3 : Byte}
    {rest : List Byte} (hin : s.input.drop s.ipos = [m0, m1, m2, m3] ++ rest) :
    s.ipos + 4 ≤ s.input.length ∧ step s = enterPhase .magic (exec (.magic (u32be m0 m1 m2 m3)) s) := by
  have hlen := congrArg List.length hin
  simp only [List.length_drop, List.length_append, List.length_cons, List.length_nil] at hlen
  refine ⟨by omega, ?_⟩
  rw [← hp]
  exact stepRunsTheDecodedOperation s .magic _ hpend (by simp [State.midToken, hp]) (by rw [State.selection, hp])
    (by rw [hin, decode_magic_cons])

/-- Settles O24: the operation of O23 on the stream's own bytes. -/
theorem magicPhaseComparesTheStream : Obligations.MagicPhaseComparesTheStream := by
  refine fun s hp hpend => ⟨fun rest hin => ?_, fun m0 m1 m2 m3 rest hin hne => ?_, fun hshort => ?_⟩
  · obtain ⟨hl, hstep⟩ := step_of_magic hp hpend hin
    rw [hstep, (magicChecksFourBytes _ s).1 hl (by decide), enterPhase_new (by simp)]
    rfl
  · obtain ⟨hl, hstep⟩ := step_of_magic hp hpend hin
    rw [hstep]
    exact ((magicChecksFourBytes _ s).2.1 hl (by rwa [Ne, u32be_eq_magic_iff])).enterPhase _
  · have hd : decode .magic s.remaining = .error .streamEnd := by
      simp only [decode, State.remaining, takeWord_of_short hshort]
    rw [step_of_idle_host hpend, seqStep_of_streamEnd (by rw [hp]; rfl) (by simp [State.midToken, hp])
      (by rw [State.selection, hp]) hd]
    exact raises_raiseStreamEnd s

/-! ### HDR (R92) -/

/-- With distinct codes the name of a code is found again (R62). -/
theorem typeOfCode_codeOfType {t : TypeCode} {ty : RasType} {w : Word}
    (hn : [t.old, t.standard, t.byteEncoded, t.rgb, t.tiff, t.iff, t.experimental].Nodup)
    (h : codeOfType t ty = some w) : typeOfCode t w = some ty := by
  cases ty with
  | code7 => cases h
  | old | standard | byteEncoded | rgb | tiff | iff | experimental =>
    cases h
    simp_all [typeOfCode, eq_comm]

theorem cmapTypeOfCode_codeOfCmapType {t : CmapCode} {cm : CmapType} {w : Word} (hn : [t.none, t.rgb, t.raw].Nodup)
    (h : codeOfCmapType t cm = some w) : cmapTypeOfCode t w = some cm := by
  cases cm with
  | code3 => cases h
  | none | rgb | raw =>
    cases h
    simp_all [cmapTypeOfCode, eq_comm]

/-- Settles O25: both names are found in their tables. -/
theorem headerWritesTheConfiguration : Obligations.HeaderWritesTheConfiguration := by
  intro s width height depth length type cmapType cmapLength ty cm hl hdistinct htype hcmap
  obtain ⟨htypes, hcmaps⟩ := of_decide_eq_true hdistinct
  rw [exec_hdr, execHdr, Config.hdrBytes, consume_of_le _ hl]
  dsimp only
  rw [typeOfCode_codeOfType htypes htype, cmapTypeOfCode_codeOfCmapType hcmaps hcmap]

/-! ### RESOLVE (R93) -/

/-- A register that holds a positive number is not 0. -/
theorem toNat_pos_iff (w : Word) : 0 < w.toNat ↔ w ≠ 0 := by
  constructor
  · rintro h rfl
    exact absurd h (Nat.lt_irrefl 0)
  · exact fun h => Nat.pos_of_ne_zero fun h0 => h (BitVec.eq_of_toNat_eq h0)

theorem execResolve_of_some {s : State} {f : PixelFormat}
    (h : resolveFormat s.cfgDepth s.cfgType (decide (s.cfgCmapLength ≠ 0)) = some f) :
    execResolve s = .next { s with palPresent := decide (s.cfgCmapLength ≠ 0), fmt := f, phase := .cmap } := by
  unfold execResolve
  simp only [toNat_pos_iff, h]

theorem resolveFormat_depth24 (ty : RasType) (p : Bool) :
    resolveFormat 24 ty p = some (if ty = .rgb then .rgb24 else .bgr24) := rfl

theorem resolveFormat_depth32 (ty : RasType) (p : Bool) : resolveFormat 32 ty p = some .rgba32 := rfl

theorem resolveFormat_depth8 (ty : RasType) (p : Bool) :
    resolveFormat 8 ty p = some (if p then .indexed8 else .grayscale8) := rfl

theorem resolveFormat_depth1 (ty : RasType) (p : Bool) :
    resolveFormat 1 ty p = some (if p then .indexed8 else .grayscale1) := rfl

/-- Every other depth is outside the table, whatever the type. -/
theorem resolveFormat_eq_none {d : Word} (h1 : d ≠ 1) (h8 : d ≠ 8) (h24 : d ≠ 24) (h32 : d ≠ 32) (ty : RasType)
    (p : Bool) : resolveFormat d ty p = none := by
  rw [resolveFormat, if_neg h24, if_neg h32, if_neg h8, if_neg h1]

/-- Settles O27: the table of formats, row by row. -/
theorem resolveChoosesTheFormat : Obligations.ResolveChoosesTheFormat := by
  refine fun s => ⟨fun f hrow => execResolve_of_some ?_, fun h1 h8 h24 h32 => ?_⟩
  · obtain ⟨hd, ht, rfl⟩ | ⟨hd, ht, rfl⟩ | ⟨hd, rfl⟩ | ⟨hd, hm, rfl⟩ | ⟨hd, hm, rfl⟩ | ⟨hd, hm, rfl⟩ | ⟨hd, hm, rfl⟩ :=
      hrow
    · rw [hd, resolveFormat_depth24, if_pos ht]
    · rw [hd, resolveFormat_depth24, if_neg ht]
    · rw [hd, resolveFormat_depth32]
    · rw [hd, resolveFormat_depth8, if_pos (decide_eq_true hm)]
    · rw [hd, resolveFormat_depth8, if_neg (by simp [hm])]
    · rw [hd, resolveFormat_depth1, if_pos (decide_eq_true hm)]
    · rw [hd, resolveFormat_depth1, if_neg (by simp [hm])]
  · rw [exec_resolve, execResolve]
    dsimp only
    rw [resolveFormat_eq_none h1 h8 h24 h32]
    exact raises_raise { s with palPresent := _ } .unsupportedDepth

/-! ### CMAP (R94) -/

theorem execCmap_of_rgb {s : State} (ht : s.cfgCmapType = .rgb) (hpos : 0 < s.cfgCmapLength.toNat) :
    execCmap s =
      if 256 < s.cfgCmapLength.toNat / 3 then .next (s.raise .paletteOverflow)
      else s.loadPalette (s.cfgCmapLength.toNat / 3) := by
  rw [execCmap, ht]
  exact if_pos hpos

/-- A byte of the colour map is a byte of the stream (R65). -/
theorem getElem?_colourMap {s : State} {L j : Nat} (hl : s.ipos + L ≤ s.input.length) (hj : j < L) :
    s.input[s.ipos + j]? = some ((s.remaining.take L).getD j 0) := by
  have hlt : s.ipos + j < s.input.length := by omega
  simp [State.remaining, List.getD_eq_getElem?_getD, hj, hlt]

/-- What the load leaves in the palette. -/
theorem read_paletteEntries (m : Memory PalEntry) (cm : List Byte) (n i : Nat) :
    Memory.read (Memory.writeAll m 0 (paletteEntries cm n)) i =
      if i < n then some (paletteEntry cm n i) else Memory.read m i := by
  rw [Memory.read_writeAll]
  by_cases h : i < n <;> simp [paletteEntries, h]

theorem loadPalette_of_le {s : State} (n : Nat) (hl : s.ipos + s.cfgCmapLength.toNat ≤ s.input.length) :
    s.loadPalette n =
      .next
        { s with
          ipos := s.ipos + s.cfgCmapLength.toNat, cidx := s.cfgCmapLength.toNat - 1
          pal := Memory.writeAll s.pal 0 (paletteEntries (s.remaining.take s.cfgCmapLength.toNat) n)
          palCount := BitVec.ofNat 9 n, phase := .size } := by
  unfold State.loadPalette
  exact consume_of_le _ hl

/-- Settles O28: the planes start at `0`, `n` and `2 * n`, and three of them fit in the `L` bytes. -/
theorem colourMapLoadsThePlanes : Obligations.ColourMapLoadsThePlanes := by
  rintro s L n rfl hn ht hpos hmax hl
  refine ⟨Memory.writeAll s.pal 0 (paletteEntries (s.remaining.take s.cfgCmapLength.toNat) n), BitVec.ofNat 9 n,
    s.cfgCmapLength.toNat - 1, ?_, ?_, fun i hi => ?_, fun i hi => ?_⟩
  · rw [exec_cmap, execCmap_of_rgb ht hpos, ← hn, if_neg (by omega), loadPalette_of_le n hl]
  · rw [BitVec.toNat_ofNat]
    omega
  · rw [Nat.add_assoc, Nat.add_assoc]
    exact ⟨_, _, _, getElem?_colourMap hl (by omega), getElem?_colourMap hl (by omega),
      getElem?_colourMap hl (by omega), (read_paletteEntries _ _ _ _).trans (if_pos hi)⟩
  · exact (read_paletteEntries _ _ _ _).trans (if_neg (by omega))

/-- Settles O29, type by type. -/
theorem colourMapOtherCases : Obligations.ColourMapOtherCases := by
  refine fun s => ⟨?_, ?_, fun ht hbig => ?_, fun ht hpos hmax hl => ?_⟩
  · rintro (ht | ⟨ht, h0⟩)
    · simp only [exec_cmap, execCmap, ht]
    · simp [exec_cmap, execCmap, ht, h0]
  · rintro (ht | ht)
    all_goals
      simp only [exec_cmap, execCmap, ht]
      exact raises_raise s .unsupportedColorMap
  · rw [exec_cmap, execCmap_of_rgb ht (by omega), if_pos hbig]
    exact raises_raise s .paletteOverflow
  · rw [exec_cmap, execCmap_of_rgb ht hpos, if_neg (by omega), State.loadPalette]
    exact raises_consume_of_lt _ hl

/-! ### SIZE (R95) -/

theorem execSize_eq (s : State) :
    execSize s =
      if s.params.rawCapacity < s.sized.rawSize ∨ s.params.pixCapacity < s.sized.pixCount then
        .next (s.sized.raise .capacityExceeded)
      else .next { s.sized with phase := .decomp } := rfl

/-- The registers of R95, said without rounding functions. -/
theorem sized_eq {s : State} {row raw pix bytes : Nat} (h1 : s.cfgDepth = 1 → bytes = 1 ∧
      (∃ r, 8 * r < s.cfgWidth.toNat + 8 ∧ s.cfgWidth.toNat ≤ 8 * r ∧ row = r + r % 2) ∧
      raw = row * s.cfgHeight.toNat)
    (hother : s.cfgDepth ≠ 1 → bytes = max 1 (s.cfgDepth.toNat / 8) ∧ row = s.cfgWidth.toNat * bytes ∧
      raw = s.cfgWidth.toNat * s.cfgHeight.toNat * bytes)
    (hpix : pix = s.cfgWidth.toNat * s.cfgHeight.toNat) :
    s.sized = { s with bpp := BitVec.ofNat 3 bytes, rowBytes := row, rawSize := raw, pixCount := pix } := by
  unfold State.sized rawSizeOf rowBytesOf bytesPerPixel
  by_cases hd : s.cfgDepth = 1
  · obtain ⟨rfl, ⟨r, hlow, hhigh, rfl⟩, rfl⟩ := h1 hd
    obtain rfl : r = (s.cfgWidth.toNat + 7) / 8 := by omega
    simp [hd, hpix]
  · obtain ⟨rfl, rfl, rfl⟩ := hother hd
    have hne : s.cfgDepth.toNat ≠ 1 := fun h => hd (BitVec.eq_of_toNat_eq h)
    simp only [hpix, if_neg hne]

/-- Settles O30: the sizes, then the check of both capacities. -/
theorem sizeIsExactAndChecked : Obligations.SizeIsExactAndChecked := by
  intro s row raw pix bytes h1 hother hpix
  rw [exec_size, execSize_eq, sized_eq h1 hother hpix]
  refine ⟨fun hraw hp => if_neg (not_or.mpr ⟨Nat.not_lt.mpr hraw, Nat.not_lt.mpr hp⟩), fun hover => ?_⟩
  rw [if_pos hover]
  exact raises_raise { s with bpp := _, rowBytes := row, rawSize := raw, pixCount := pix } .capacityExceeded

/-! ### The acceptance of a command (R96, R97) -/

theorem hostWriteReg_cmd {s : State} (hb : s.busy = false) (v : Word) :
    s.hostWriteReg 15 v = s.command (v.setWidth 2) := by
  simp [State.hostWriteReg, hb]

/-- Settles O46: the two low bits are the command's code. -/
theorem commandsAreAccepted : Obligations.CommandsAreAccepted := by
  intro s v rest hp hb accepted
  have hstep {c : BitVec 2} (hc : v.toNat % 4 = c.toNat) : step s = State.command { s with pending := rest } c := by
    rw [step_of_writeReg hp, hostWriteReg_cmd (s := { s with pending := rest }) hb, setWidth_eq_of_mod hc]
  exact ⟨hstep (c := 1), hstep (c := 2), hstep (c := 0)⟩

end Sys2Proof.Machine
end

section
/-! PROOFS. The decompressor, operation by operation: its entry (O31), `RAWB`, `LIT` and `ESC0` (O32 to O34), and
`RUN` (O35). -/

namespace Sys2Proof.Machine

/-! ### Entry to DECOMP (R120) -/

/-- Where `SIZE` does not fault, the state entering `DECOMP` has the registers of R95. -/
theorem execSize_decomp {s u : State} (h : execSize s = .next u) (hp : u.phase = .decomp) :
    u = { s.sized with phase := .decomp } := by
  rw [execSize_eq] at h
  split at h <;> cases h
  · cases hp
  · rfl

/-- The step that leaves `SIZE` enters `DECOMP` (log entry 24). -/
theorem step_of_size {s u : State} (hpend : s.pending = []) (hp : s.phase = .size) (h : exec .size s = .next u)
    (hq : u.phase = .decomp) : step s = .next u.enterDecomp := by
  have hrun : step s = enterPhase s.phase (exec .size s) :=
    stepRunsTheDecodedOperation s .size .size hpend (by simp [State.midToken, hp]) (by rw [State.selection, hp]) rfl
  rw [hrun, h, enterPhase_new (by simp [hp, hq]), State.enter, hq]

/-- R132: the types that have no decompression mode. -/
theorem RasType.decompMode_none {ty : RasType} (h : ty = .tiff ∨ ty = .iff ∨ ty = .experimental ∨ ty = .code7) :
    RasType.decompMode ty = none := by
  obtain rfl | rfl | rfl | rfl := h <;> rfl

/-- R120: the types that have one. -/
theorem RasType.decompMode_ne_none {ty : RasType} (h : ty = .old ∨ ty = .standard ∨ ty = .rgb ∨ ty = .byteEncoded) :
    RasType.decompMode ty ≠ none := by
  obtain rfl | rfl | rfl | rfl := h <;> exact Option.some_ne_none _

/-- An unsupported type faults, whatever the size (R132). -/
theorem State.enterDecomp_unsupported {s : State} (h : RasType.decompMode s.cfgType = none) :
    s.enterDecomp = s.raise .unsupportedType := by
  rw [State.enterDecomp, h]

/-- A supported type starts, and is done at once with an empty bitmap (R120, R130). -/
theorem State.enterDecomp_supported {s : State} (h : RasType.decompMode s.cfgType ≠ none) :
    s.enterDecomp = if s.rawSize = 0 then s.started.enterAssemble else s.started := by
  obtain ⟨m, hm⟩ := Option.ne_none_iff_exists'.mp h
  rw [State.enterDecomp, hm]
  rfl

/-- Settles O31: the entry to `DECOMP` is the end of the step, and only an unsupported type faults in it. -/
theorem decompressionEntry : Obligations.DecompressionEntry := by
  intro s u hpend hp hu hq
  have hstep := step_of_size hpend hp hu hq
  obtain rfl := execSize_decomp hu hq
  rw [hstep]
  refine ⟨fun hty => ?_, fun hty => ?_⟩
  · rw [State.enterDecomp_unsupported (by exact RasType.decompMode_none hty)]
    exact raises_raise { s.sized with phase := .decomp } .unsupportedType
  · rw [State.enterDecomp_supported (by exact RasType.decompMode_ne_none hty)]
    split
    case isTrue h0 =>
      exact ⟨_, rfl, rfl, rfl, rfl, rfl, ⟨rfl, rfl, rfl, rfl, rfl, rfl, rfl⟩, fun _ => ⟨rfl, rfl, rfl⟩,
        fun h => absurd h0 h⟩
    case isFalse h0 =>
      exact ⟨_, rfl, rfl, rfl, rfl, rfl, ⟨rfl, rfl, rfl, rfl, rfl, rfl, rfl⟩, fun h => absurd h h0, fun _ => rfl⟩

/-! ### The operations that emit one byte (R121, R123, R124) -/

/-- Consuming `n` bytes and emitting one, before a continuation that leaves `DECOMP` exactly when `RAW` is full. -/
theorem consume_emit_of_le {s : State} {n : Nat} {v : Byte} {k : State → Out} (hl : s.ipos + n ≤ s.input.length)
    (hroom : s.opos < s.rawSize)
    (hk : ∀ u : State, u.rstate = s.rstate →
      k u = .next { u with phase := if u.opos = u.rawSize then .assemble else u.phase }) :
    ∃ m : List Host.Cell,
      s.consume n (fun s => s.emit v k) =
        .next
          { s with
            ipos := s.ipos + n, opos := s.opos + 1, raw := m
            phase := if s.opos + 1 = s.rawSize then .assemble else s.phase } ∧
      Memory.read m s.opos = some v ∧ ∀ i, i ≠ s.opos → Memory.read m i = Memory.read s.raw i := by
  refine ⟨Memory.write s.raw s.opos v, ?_, Memory.read_write_same _ _ _, fun i hi => Memory.read_write_other _ _ hi⟩
  rw [consume_of_le _ hl, emit_of_lt _ _ (by exact hroom)]
  exact hk _ rfl

/-- At a token start, the end of a token changes the phase only. -/
theorem afterToken_of_rByte {s : State} (hrs : s.rstate = .rByte) :
    s.afterToken = { s with phase := if s.opos = s.rawSize then .assemble else s.phase } := by
  rw [afterToken_eq, ← hrs]

/-- Settles O32: the byte is consumed and emitted, and `RSTATE` is not touched. -/
theorem rawCopyMovesOneByte : Obligations.RawCopyMovesOneByte := by
  intro b s
  rw [exec_rawb, execRawb]
  refine ⟨fun hl hroom => consume_emit_of_le hl hroom fun u _ => ?_, raises_consume_of_lt _⟩
  split <;> rfl

/-- Settles O33: the token ends in the state it began in. -/
theorem literalEmitsItsByte : Obligations.LiteralEmitsItsByte := by
  intro b s
  rw [exec_lit, execLit]
  exact ⟨fun hl hroom hrs =>
    consume_emit_of_le hl hroom fun _ hu => congrArg _ (afterToken_of_rByte (hu.trans hrs)), raises_consume_of_lt _⟩

/-- Settles O34: as a literal, with two bytes consumed. -/
theorem escapeZeroEmitsOneEscapeByte : Obligations.EscapeZeroEmitsOneEscapeByte := by
  intro s
  rw [exec_esc0, execEsc0]
  exact ⟨fun hl hroom hrs =>
    consume_emit_of_le hl hroom fun _ hu => congrArg _ (afterToken_of_rByte (hu.trans hrs)), raises_consume_of_lt _⟩

/-! ### Runs (R125) -/

/-- What a count of `c + 1` is after `k` copies. -/
theorem runCount_sub_toNat {c : Byte} {k : Nat} (hk : k ≤ c.toNat + 1) :
    (runCount c - BitVec.ofNat 9 k).toNat = c.toNat + 1 - k := by
  have hc := c.isLt
  have hofNat : (BitVec.ofNat 9 k).toNat = k := by
    rw [BitVec.toNat_ofNat]
    omega
  rw [BitVec.toNat_sub_of_le (by rw [BitVec.le_def, hofNat, runCount_toNat]; exact hk), hofNat, runCount_toNat]

/-- Settles O35, by the law of a run of copies. -/
theorem runEmitsItsCopies : Obligations.RunEmitsItsCopies := by
  intro c v s _
  rw [exec_run, execRun]
  refine ⟨fun hl hroom hrs => ?_, raises_consume_of_lt _⟩
  obtain ⟨m, he, -, -, hread⟩ :=
    emitRun_eq (runCount c).toNat { s with ipos := s.ipos + 3, rcount := runCount c, rvalue := v }
      (by rw [runCount_toNat]; omega) hroom
  rw [runCount_toNat] at he hread
  refine ⟨m, _, _, rfl, runCount_sub_toNat (Nat.min_le_left _ _), ?_, hread⟩
  rw [consume_of_le _ hl]
  dsimp only
  rw [runCount_toNat, he, hrs]

end Sys2Proof.Machine
end

section
/-! PROOFS. The byte-level machine follows its table (O37), and a token step is a run of it (O36). -/

namespace Sys2Proof.Machine

/-! ### The byte-level machine (R122): one equation for each row of the table -/

theorem rleTransition_streamEnd {s : State} (hrs : s.rstate ≠ .rRun) (hend : s.input.length ≤ s.ipos) :
    rleTransition s = .next s.raiseStreamEnd := by
  unfold rleTransition
  split
  case h_4 h => exact absurd h hrs
  all_goals exact pull_none _ hend

theorem rleTransition_esc {s : State} (hrs : s.rstate = .rByte) (hb : s.input[s.ipos]? = some Config.esc) :
    rleTransition s = .next { s with ipos := s.ipos + 1, rstate := .rCount } := by
  rw [rleTransition, hrs]
  exact pull_some _ hb

theorem rleTransition_lit {s : State} {b : Byte} (hrs : s.rstate = .rByte) (hb : s.input[s.ipos]? = some b)
    (hne : b ≠ Config.esc) :
    rleTransition s = State.emit { s with ipos := s.ipos + 1 } b fun s => .next s.afterToken := by
  rw [rleTransition, hrs]
  exact (pull_some _ hb).trans (if_neg hne)

theorem rleTransition_esc0 {s : State} (hrs : s.rstate = .rCount) (hb : s.input[s.ipos]? = some 0) :
    rleTransition s = State.emit { s with ipos := s.ipos + 1 } Config.esc fun s => .next s.afterToken := by
  rw [rleTransition, hrs]
  exact pull_some _ hb

theorem rleTransition_count {s : State} {c : Byte} (hrs : s.rstate = .rCount) (hb : s.input[s.ipos]? = some c)
    (hne : c ≠ 0) :
    rleTransition s = .next { s with ipos := s.ipos + 1, rcount := runCount c, rstate := .rValue } := by
  rw [rleTransition, hrs]
  exact (pull_some _ hb).trans (if_neg hne)

theorem rleTransition_value {s : State} {b : Byte} (hrs : s.rstate = .rValue) (hb : s.input[s.ipos]? = some b) :
    rleTransition s = .next { s with ipos := s.ipos + 1, rvalue := b, rstate := .rRun } := by
  rw [rleTransition, hrs]
  exact pull_some _ hb

/-- The state after one copy of a run (R125). -/
def State.copied (s : State) : State :=
  { s with raw := Memory.write s.raw s.opos s.rvalue, opos := s.opos + 1, rcount := s.rcount - 1 }

theorem rleTransition_copy {s : State} (hrs : s.rstate = .rRun) (hroom : s.opos < s.rawSize) :
    rleTransition s =
      .next (if s.opos + 1 = s.rawSize ∨ s.rcount = 1 then s.copied.afterToken else s.copied) := by
  have hzero : s.rcount - 1 = 0 ↔ s.rcount = 1 := sub_eq_zero
  rw [rleTransition, hrs]
  dsimp only
  rw [emit_of_lt _ _ hroom]
  dsimp only
  by_cases hfull : s.opos + 1 = s.rawSize
  · rw [if_pos hfull, if_pos (.inl hfull)]
    rfl
  by_cases hlast : s.rcount = 1
  · have hafter : s.copied.afterToken = { s.copied with rstate := .rByte } := if_neg hfull
    rw [if_neg hfull, if_pos (hzero.mpr hlast), if_pos (.inr hlast), hafter]
    rfl
  · rw [if_neg hfull, if_neg (mt hzero.mp hlast), if_neg (not_or.mpr ⟨hfull, hlast⟩)]
    rfl

theorem emitRun_succ {s : State} (k : Nat) (hroom : s.opos < s.rawSize) :
    emitRun (k + 1) s = if s.opos + 1 = s.rawSize then .next s.copied.afterToken else emitRun k s.copied := by
  rw [emitRun, emit_of_lt _ _ hroom]
  rfl

/-- An emit that ends a token. -/
theorem emit_afterToken_of_lt {s : State} (v : Byte) (hroom : s.opos < s.rawSize) :
    (s.emit v fun s => .next s.afterToken) =
      .next
        { s with
          raw := Memory.write s.raw s.opos v, opos := s.opos + 1, rstate := .rByte
          phase := if s.opos + 1 = s.rawSize then .assemble else s.phase } := by
  rw [emit_of_lt _ _ hroom, afterToken_eq]

/-- Settles O37, row by row; a pulled byte is emitted in two states, `R_BYTE` and `R_COUNT`. -/
theorem byteLevelMachineFollowsItsTable : Obligations.ByteLevelMachineFollowsItsTable := by
  refine fun s b hroom => ⟨fun hrs hb hesc => rleTransition_esc hrs (hb.trans (congrArg some hesc)),
    fun hrs hb hne => ⟨runCount b, runCount_toNat b, rleTransition_count hrs hb hne⟩,
    fun hrs hb => rleTransition_value hrs hb, fun hemits => ?_, fun hrs => ?_⟩
  · have hrow : rleTransition s = State.emit { s with ipos := s.ipos + 1 } b fun s => .next s.afterToken := by
      obtain ⟨hrs, hb, hne⟩ | ⟨hrs, hb, rfl⟩ := hemits
      · exact rleTransition_lit hrs hb hne
      · exact rleTransition_esc0 hrs hb
    exact ⟨_, hrow.trans (emit_afterToken_of_lt b (by exact hroom)), rfl, rfl, Memory.read_write_same _ _ _,
      fun i hi => Memory.read_write_other _ _ hi, fun h => if_pos h, fun h => ⟨if_neg h, rfl⟩⟩
  · refine ⟨_, rleTransition_copy hrs hroom, ?_⟩
    split
    case isTrue hends =>
      rw [afterToken_eq]
      exact ⟨rfl, rfl, rfl, Memory.read_write_same _ _ _, fun i hi => Memory.read_write_other _ _ hi,
        fun h => if_pos h, fun h => ⟨if_neg h, (if_pos (hends.resolve_left h)).symm⟩⟩
    case isFalse hgoes =>
      obtain ⟨hfull, hmore⟩ := not_or.mp hgoes
      exact ⟨rfl, rfl, rfl, Memory.read_write_same _ _ _, fun i hi => Memory.read_write_other _ _ hi,
        fun h => absurd h hfull, fun _ => ⟨rfl, hrs.trans (if_neg hmore).symm⟩⟩

/-! ### A token step is a run of the byte-level machine (R127) -/

theorem rleTransitions_of_next {s t : State} (n : Nat) (h : rleTransition s = .next t) :
    rleTransitions (n + 1) s = rleTransitions n t := by
  rw [rleTransitions, h]

theorem rleTransitions_one (s : State) : rleTransitions 1 s = rleTransition s := by
  unfold rleTransitions
  cases rleTransition s <;> rfl

/-- The rest of a run: one transition for each copy, as many as fit. -/
theorem exists_rleTransitions_eq_emitRun (k : Nat) {s : State} (hk : s.rcount.toNat = k + 1) (hrs : s.rstate = .rRun)
    (hroom : s.opos < s.rawSize) : ∃ n, n ≤ k + 1 ∧ rleTransitions n s = emitRun (k + 1) s := by
  have hstep := rleTransition_copy hrs hroom
  rw [emitRun_succ k hroom]
  by_cases hfull : s.opos + 1 = s.rawSize
  · rw [if_pos (.inl hfull)] at hstep
    exact ⟨1, by omega, by rw [rleTransitions_one, hstep, if_pos hfull]⟩
  rw [if_neg hfull]
  cases k with
  | zero =>
    rw [if_pos (.inr (BitVec.eq_of_toNat_eq hk))] at hstep
    exact ⟨1, le_rfl, (rleTransitions_one s).trans hstep⟩
  | succ k =>
    have hmore : s.rcount ≠ 1 := by
      intro h
      simp [h] at hk
    have hcount : s.copied.rcount.toNat = k + 1 := by
      show (s.rcount - 1).toNat = k + 1
      rw [BitVec.toNat_sub_of_le (by bv_omega), hk]
      rfl
    rw [if_neg (not_or.mpr ⟨hfull, hmore⟩)] at hstep
    obtain ⟨n, hn, hrun⟩ := exists_rleTransitions_eq_emitRun k hcount hrs
      (by show s.opos + 1 < s.rawSize; omega)
    exact ⟨n + 1, by omega, (rleTransitions_of_next n hstep).trans hrun⟩

/-- The byte that comes next, and the bytes after it. -/
theorem getElem?_and_drop_of_drop_eq_cons {l rest : List Byte} {i : Nat} {b : Byte} (h : l.drop i = b :: rest) :
    l[i]? = some b ∧ l.drop (i + 1) = rest := by
  rw [← List.head?_drop, ← List.tail_drop, h]
  exact ⟨rfl, rfl⟩

/-- A stream end after some bytes of a token leaves what a stream end before them leaves (R191). -/
theorem raiseStreamEnd_midToken {s : State} {i : Nat} (rc : BitVec 9) (rs : RState) (hfrom : s.ipos ≤ i)
    (hto : i ≤ s.input.length) :
    ({ s with ipos := i, rcount := rc, rstate := rs } : State).raiseStreamEnd = s.raiseStreamEnd := by
  unfold State.raiseStreamEnd
  dsimp only
  rw [max_eq_right hto, max_eq_right (hfrom.trans hto)]
  rfl

section
variable {s : State} (hrs : s.rstate = .rByte)
include hrs

theorem rleTransitions_lit {b : Byte} {rest : List Byte} (hne : b ≠ Config.esc)
    (hin : s.input.drop s.ipos = b :: rest) : rleTransitions 1 s = exec (.lit b) s := by
  obtain ⟨hb, -⟩ := getElem?_and_drop_of_drop_eq_cons hin
  rw [rleTransitions_one, rleTransition_lit hrs hb hne, exec_lit, execLit,
    consume_of_le _ (List.getElem?_eq_some_iff.mp hb).1]

/-- The two transitions from which a run begins. -/
theorem rleTransitions_escape_count {c : Byte} {rest : List Byte} (hne : c ≠ 0)
    (hin : s.input.drop s.ipos = Config.esc :: c :: rest) (n : Nat) :
    rleTransitions (n + 2) s =
      rleTransitions n { s with ipos := s.ipos + 2, rcount := runCount c, rstate := .rValue } := by
  obtain ⟨hesc, hin⟩ := getElem?_and_drop_of_drop_eq_cons hin
  obtain ⟨hc, -⟩ := getElem?_and_drop_of_drop_eq_cons hin
  rw [rleTransitions_of_next (n + 1) (rleTransition_esc hrs hesc),
    rleTransitions_of_next n (rleTransition_count rfl hc hne)]

/-- Wherever the stream ends inside a token, the machine comes to the fault of a token that is not complete. -/
theorem rleTransitions_incomplete {bytes : List Byte}
    (hshort : bytes = [] ∨ bytes = [Config.esc] ∨ ∃ c, c ≠ 0 ∧ bytes = [Config.esc, c])
    (hin : s.input.drop s.ipos = bytes) : ∃ n, n ≤ 3 ∧ rleTransitions n s = .next s.raiseStreamEnd := by
  have hlen := congrArg List.length hin
  rw [List.length_drop] at hlen
  obtain rfl | rfl | ⟨c, hne, rfl⟩ := hshort
  · rw [List.length_nil] at hlen
    exact ⟨1, by decide, by rw [rleTransitions_one, rleTransition_streamEnd (by rw [hrs]; decide) (by omega)]⟩
  · obtain ⟨hesc, -⟩ := getElem?_and_drop_of_drop_eq_cons hin
    rw [List.length_singleton] at hlen
    refine ⟨2, by decide, ?_⟩
    rw [rleTransitions_of_next 1 (rleTransition_esc hrs hesc), rleTransitions_one,
      rleTransition_streamEnd (by simp) (by show s.input.length ≤ s.ipos + 1; omega)]
    exact congrArg _ (raiseStreamEnd_midToken s.rcount .rCount (by omega) (by omega))
  · rw [List.length_cons, List.length_singleton] at hlen
    refine ⟨3, le_rfl, ?_⟩
    rw [rleTransitions_escape_count hrs hne hin 1, rleTransitions_one,
      rleTransition_streamEnd (by simp) (by show s.input.length ≤ s.ipos + 2; omega)]
    exact congrArg _ (raiseStreamEnd_midToken (runCount c) .rValue (by omega) (by omega))

variable (hroom : s.opos < s.rawSize)
include hroom

theorem rleTransitions_esc0 {rest : List Byte} (hin : s.input.drop s.ipos = Config.esc :: 0 :: rest) :
    rleTransitions 2 s = exec .esc0 s := by
  obtain ⟨hesc, hin⟩ := getElem?_and_drop_of_drop_eq_cons hin
  obtain ⟨h0, -⟩ := getElem?_and_drop_of_drop_eq_cons hin
  rw [rleTransitions_of_next 1 (rleTransition_esc hrs hesc), rleTransitions_one, rleTransition_esc0 rfl h0, exec_esc0,
    execEsc0, consume_of_le _ (List.getElem?_eq_some_iff.mp h0).1, emit_afterToken_of_lt _ (by exact hroom),
    emit_afterToken_of_lt _ (by exact hroom)]

/-- A run: three pulls, then one transition for each copy. -/
theorem rleTransitions_run {c v : Byte} {rest : List Byte} (hne : c ≠ 0)
    (hin : s.input.drop s.ipos = Config.esc :: c :: v :: rest) :
    ∃ n, n ≤ 259 ∧ rleTransitions n s = exec (.run c v) s := by
  have hv : s.input[s.ipos + 2]? = some v := by
    rw [← List.getElem?_drop, hin]
    rfl
  have hc := c.isLt
  obtain ⟨n, hn, hrun⟩ := exists_rleTransitions_eq_emitRun c.toNat
    (s := { s with ipos := s.ipos + 3, rcount := runCount c, rvalue := v, rstate := .rRun }) (runCount_toNat c) rfl
    hroom
  refine ⟨n + 3, by omega, ?_⟩
  rw [rleTransitions_escape_count hrs hne hin, rleTransitions_of_next n (rleTransition_value rfl hv), exec_run, execRun,
    consume_of_le _ (List.getElem?_eq_some_iff.mp hv).1]
  dsimp only
  rw [runCount_toNat]
  exact hrun.trans
    (emitRun_rstate _ { s with ipos := s.ipos + 3, rcount := runCount c, rvalue := v } (by omega) hroom _)

end

/-- Settles O36: the bytes at `IPOS` are a whole token or a beginning of one (O15), and each kind of token is a run of
the machine. -/
theorem tokenStepIsTheByteLevelMachine : Obligations.TokenStepIsTheByteLevelMachine := by
  intro s _ hrs hroom
  obtain ⟨i, rest, hwf, hsel, hin, hdecode⟩ | ⟨hshort, hdecode⟩ := tokenEncodingIsTotal (s.input.drop s.ipos) <;>
    rw [hdecode]
  · refine ⟨?_, nofun⟩
    rintro _ ⟨⟩
    cases i with
    | lit b => exact ⟨1, by decide, rleTransitions_lit hrs (bne_iff_ne.mp hwf) hin⟩
    | esc0 => exact ⟨2, by decide, rleTransitions_esc0 hrs hroom hin⟩
    | run c v => exact rleTransitions_run hrs hroom (bne_iff_ne.mp hwf) hin
    | _ => cases hsel
  · exact ⟨nofun, fun _ => rleTransitions_incomplete hrs hshort rfl⟩

end Sys2Proof.Machine
end

section
/-! PROOFS. The pixel assembler: the table of R150 (O20), and what each assembly operation leaves on a ready image (O38
to O44). -/

namespace Sys2Proof.Machine

/-! ### The table (R150) -/

/-- Settles O20: one case for each row of the table; a format with another depth has no operation. -/
theorem assemblyDispatchIsTheTable : Obligations.AssemblyDispatchIsTheTable := by
  intro fmt depth bytes i
  constructor
  · intro h
    cases fmt <;> simp only [decode, decodeAsm] at h
    case indexed8 =>
      split at h
      · cases h
        simp [*]
      · split at h <;> cases h
        simp [*]
    all_goals
      split at h <;> cases h
      simp [*]
  · rintro (⟨rfl, rfl, rfl⟩ | ⟨rfl, rfl, rfl⟩ | ⟨rfl, rfl, rfl⟩ | ⟨rfl, rfl, rfl⟩ | ⟨rfl, rfl, rfl⟩ | ⟨rfl, rfl, rfl⟩ |
      ⟨rfl, rfl, rfl⟩) <;> rfl

/-! ### Whole assembly operations -/

/-- R158: from `s` the operation completes. `PIX` is then some `m` with `Q m` that keeps every index from `PIX_COUNT`
on; `RAW`, `AX` and `AY` are left open, and nothing else has changed. -/
def Completes (s : State) (o : Out) (Q : Memory Pixel → Prop) : Prop :=
  ∃ (m : Memory Pixel) (r : List Host.Cell) (ax ay : Nat),
    o =
      .next
        { s with
          pix := m, raw := r, ax := ax, ay := ay, outWidth := s.cfgWidth, outHeight := s.cfgHeight
          phase := .done, busy := false, done := true, pixValid := true } ∧
    Q m ∧ ∀ p, s.pixCount ≤ p → Memory.read m p = Memory.read s.pix p

theorem Completes.mono {s : State} {o : Out} {Q Q' : Memory Pixel → Prop} (h : Completes s o Q)
    (hQ : ∀ m, Q m → Q' m) : Completes s o Q' := by
  obtain ⟨m, r, ax, ay, hdone, hm, hframe⟩ := h
  exact ⟨m, r, ax, ay, hdone, hQ m hm, hframe⟩

/-- Every index below `PIX_COUNT` is the index of a row and a column (R31). -/
theorem exists_pixIndex_eq {s : State} (hc : s.pixCount = s.cfgWidth.toNat * s.cfgHeight.toNat) {p : Nat}
    (hp : p < s.pixCount) : ∃ y x, y < s.cfgHeight.toNat ∧ x < s.cfgWidth.toNat ∧ s.pixIndex y x = p := by
  rw [hc] at hp
  have hwidth : 0 < s.cfgWidth.toNat := Nat.pos_of_mul_pos_right (Nat.zero_lt_of_lt hp)
  exact ⟨p / s.cfgWidth.toNat, p % s.cfgWidth.toNat, Nat.div_lt_of_lt_mul hp, Nat.mod_lt p hwidth,
    Nat.div_add_mod' p s.cfgWidth.toNat⟩

/-- An operation that makes an element with the property `P y x` at every row and column of a ready image leaves such
an element at each. -/
theorem assemble_elements {elem : Element} {s : State} (P : Nat → Nat → Pixel → Prop) (hstable : elem.stable)
    (hr : readyToAssemble s)
    (hmake : ∀ y x, y < s.cfgHeight.toNat → x < s.cfgWidth.toNat → ∃ e, elem s y x = .ok e ∧ P y x e) :
    Completes s (s.assemble elem) fun m =>
      ∀ y x, y < s.cfgHeight.toNat → x < s.cfgWidth.toNat →
        ∃ e, Memory.read m (s.pixIndex y x) = some e ∧ P y x e := by
  have hc : s.pixCount = s.cfgWidth.toNat * s.cfgHeight.toNat := hr.2.2.1
  have hval (p : Nat) (hp : p < s.pixCount) : ∃ e, ∀ y x, x < s.cfgWidth.toNat → s.pixIndex y x = p →
      elem s y x = .ok e ∧ P y x e := by
    obtain ⟨y, x, hy, hx, rfl⟩ := exists_pixIndex_eq hc hp
    obtain ⟨e, he⟩ := hmake y x hy hx
    refine ⟨e, fun y' x' hx' h => ?_⟩
    obtain ⟨rfl, rfl⟩ := pixIndex_inj hx' hx h
    exact he
  choose! val hval using hval
  obtain ⟨m, a, b, hdone, -, hread⟩ := assemble_eq elem hstable val s hr fun y x hy hx =>
    (hval _ (pixIndex_lt hc hy hx) y x hx rfl).1
  refine ⟨m, [], a, b, hdone, fun y x hy hx => ?_, fun p hp => ?_⟩
  · have hlt := pixIndex_lt hc hy hx
    exact ⟨_, by rw [hread, if_pos hlt], (hval _ hlt y x hx rfl).2⟩
  · rw [hread, if_neg (Nat.not_lt.mpr hp)]

/-- The same for an operation that makes each element from the `k` bytes of `RAW` at `k` times its index. -/
theorem assemble_pixels {elem : Element} {s : State} {k : Nat} (P : Nat → Pixel → Prop) (hstable : elem.stable)
    (hr : readyToAssemble s) (hsize : s.rawSize = k * s.pixCount)
    (hmake : ∀ y x, k * s.pixIndex y x + k ≤ s.rawSize → ∃ e, elem s y x = .ok e ∧ P (s.pixIndex y x) e) :
    Completes s (s.assemble elem) fun m => ∀ p, p < s.pixCount → ∃ e, Memory.read m p = some e ∧ P p e := by
  have hc := hr.2.2.1
  refine (assemble_elements (fun y x => P (s.pixIndex y x)) hstable hr fun y x hy hx => hmake y x ?_).mono ?_
  · rw [hsize]
    exact Nat.mul_le_mul_left k (pixIndex_lt hc hy hx)
  · intro m hm p hp
    obtain ⟨y, x, hy, hx, rfl⟩ := exists_pixIndex_eq hc hp
    exact hm y x hy hx

/-! ### Bytes (R152, R155) -/

/-- An operation that wraps the byte at the pixel's index leaves every byte of `RAW` wrapped. -/
theorem assemble_bytes {elem : Element} {s : State} (wrap : Byte → Pixel) (hstable : elem.stable)
    (helem : ∀ y x v, s.readRaw (s.pixIndex y x) = .ok v → elem s y x = .ok (wrap v)) (hr : readyToAssemble s)
    (hsize : s.rawSize = s.pixCount) :
    Completes s (s.assemble elem) fun m =>
      ∀ p, p < s.pixCount → ∃ v, Memory.read s.raw p = some v ∧ Memory.read m p = some (wrap v) := by
  refine (assemble_pixels (k := 1) (fun p e => ∃ v, Memory.read s.raw p = some v ∧ e = wrap v) hstable hr
    (by omega) fun y x hroom => ?_).mono ?_
  · obtain ⟨v, hv, hok⟩ := readRaw_of_ready (i := s.pixIndex y x) hr (by omega)
    exact ⟨wrap v, helem y x v hok, v, hv, rfl⟩
  · intro m hm p hp
    obtain ⟨e, he, v, hv, rfl⟩ := hm p hp
    exact ⟨v, hv, he⟩

/-- Settles O39: the byte is wrapped as a grey value. -/
theorem grayscaleBytesAreCopied : Obligations.GrayscaleBytesAreCopied := fun _ hr hsize =>
  assemble_bytes .grayscale8 elementG8_stable (fun _ _ _ hv => by simp [elementG8, hv, ok_bind]) hr hsize

/-- Settles O42: the byte is wrapped as an index, whatever `PAL_COUNT` is. -/
theorem indexBytesAreCopied : Obligations.IndexBytesAreCopied := fun _ hr hsize =>
  assemble_bytes .indexed8 elementIdx8_stable (fun _ _ _ hv => by simp [elementIdx8, hv, ok_bind]) hr hsize

/-! ### Triples (R153, R154) -/

/-- An operation that wraps the three bytes from three times the pixel's index on leaves every triple of `RAW`
wrapped. -/
theorem assemble_triples {elem : Element} {s : State} (wrap : Byte → Byte → Byte → Pixel) (hstable : elem.stable)
    (helem : ∀ y x u v w, s.readRaw (3 * s.pixIndex y x) = .ok u → s.readRaw (3 * s.pixIndex y x + 1) = .ok v →
      s.readRaw (3 * s.pixIndex y x + 2) = .ok w → elem s y x = .ok (wrap u v w)) (hr : readyToAssemble s)
    (hsize : s.rawSize = 3 * s.pixCount) :
    Completes s (s.assemble elem) fun m =>
      ∀ p, p < s.pixCount → ∃ u v w, Memory.read s.raw (3 * p) = some u ∧ Memory.read s.raw (3 * p + 1) = some v ∧
        Memory.read s.raw (3 * p + 2) = some w ∧ Memory.read m p = some (wrap u v w) := by
  refine (assemble_pixels (fun p e => ∃ u v w, Memory.read s.raw (3 * p) = some u ∧
    Memory.read s.raw (3 * p + 1) = some v ∧ Memory.read s.raw (3 * p + 2) = some w ∧ e = wrap u v w) hstable hr
    hsize fun y x hroom => ?_).mono ?_
  · obtain ⟨u, hu, hoku⟩ := readRaw_of_ready (i := 3 * s.pixIndex y x) hr (by omega)
    obtain ⟨v, hv, hokv⟩ := readRaw_of_ready (i := 3 * s.pixIndex y x + 1) hr (by omega)
    obtain ⟨w, hw, hokw⟩ := readRaw_of_ready (i := 3 * s.pixIndex y x + 2) hr (by omega)
    exact ⟨_, helem y x u v w hoku hokv hokw, u, v, w, hu, hv, hw, rfl⟩
  · intro m hm p hp
    obtain ⟨e, he, u, v, w, hu, hv, hw, rfl⟩ := hm p hp
    exact ⟨u, v, w, hu, hv, hw, he⟩

/-- Settles O40: the triple is wrapped as red, green, blue. -/
theorem rgbTriplesAreCopied : Obligations.RgbTriplesAreCopied := fun _ hr hsize =>
  assemble_triples .rgb24 elementRgb24_stable
    (fun _ _ _ _ _ hu hv hw => by simp [elementRgb24, hu, hv, hw, ok_bind]) hr hsize

/-- Settles O41: the triple is wrapped as blue, green, red. -/
theorem bgrTriplesAreCopied : Obligations.BgrTriplesAreCopied := by
  intro s hr hsize
  refine (assemble_triples .bgr24 elementBgr24_stable
    (fun _ _ _ _ _ hu hv hw => by simp [elementBgr24, hu, hv, hw, ok_bind]) hr hsize).mono fun m hm p hp => ?_
  obtain ⟨b, g, r, hpix⟩ := hm p hp
  exact ⟨r, g, b, hpix⟩

/-! ### Padded channels (R157) -/

/-- The channels in the order of the type, alpha opaque (R157). -/
def rgbaOf (ty : RasType) (b1 b2 b3 : Byte) : Pixel :=
  if ty = .rgb then .rgba32 b1 b2 b3 Config.alphaOpaque else .rgba32 b3 b2 b1 Config.alphaOpaque

/-- The operation makes that element of four bytes, whatever the first of them is. -/
theorem elementRgba32_of_bytes {s : State} {y x : Nat} {pad b1 b2 b3 : Byte}
    (hpad : s.readRaw (4 * s.pixIndex y x) = .ok pad) (h1 : s.readRaw (4 * s.pixIndex y x + 1) = .ok b1)
    (h2 : s.readRaw (4 * s.pixIndex y x + 2) = .ok b2) (h3 : s.readRaw (4 * s.pixIndex y x + 3) = .ok b3) :
    elementRgba32 s y x = .ok (rgbaOf s.cfgType b1 b2 b3) := by
  simp only [elementRgba32, rgbaOf, hpad, h1, h2, h3, ok_bind]

/-- Settles O44: the byte at `4 * p` is read and dropped, and the other three are the channels. -/
theorem rgbaChannelsFollowTheType : Obligations.RgbaChannelsFollowTheType := by
  intro s hr hsize
  refine (assemble_pixels (fun p e => ∃ b1 b2 b3, Memory.read s.raw (4 * p + 1) = some b1 ∧
    Memory.read s.raw (4 * p + 2) = some b2 ∧ Memory.read s.raw (4 * p + 3) = some b3 ∧ e = rgbaOf s.cfgType b1 b2 b3)
    elementRgba32_stable hr hsize fun y x hroom => ?_).mono ?_
  · obtain ⟨pad, -, hpad⟩ := readRaw_of_ready (i := 4 * s.pixIndex y x) hr (by omega)
    obtain ⟨b1, h1, hok1⟩ := readRaw_of_ready (i := 4 * s.pixIndex y x + 1) hr (by omega)
    obtain ⟨b2, h2, hok2⟩ := readRaw_of_ready (i := 4 * s.pixIndex y x + 2) hr (by omega)
    obtain ⟨b3, h3, hok3⟩ := readRaw_of_ready (i := 4 * s.pixIndex y x + 3) hr (by omega)
    exact ⟨_, elementRgba32_of_bytes hpad hok1 hok2 hok3, b1, b2, b3, h1, h2, h3, rfl⟩
  · intro m hm p hp
    obtain ⟨e, he, b1, b2, b3, h1, h2, h3, rfl⟩ := hm p hp
    refine ⟨b1, b2, b3, h1, h2, h3, fun hty => ?_, fun hty => ?_⟩
    · rw [he, rgbaOf, if_pos hty]
      rfl
    · rw [he, rgbaOf, if_neg hty]
      rfl

/-! ### Bits (R151, R156) -/

/-- An operation that wraps the bitmap bit of the pixel leaves every bit of the padded rows wrapped. -/
theorem assemble_bits {elem : Element} {s : State} (wrap : Bool → Pixel) (hstable : elem.stable)
    (helem : ∀ y x bit, s.rowBit y x = .ok bit → elem s y x = .ok (wrap bit)) (hr : readyToAssemble s)
    (hw : s.cfgWidth.toNat ≤ 8 * s.rowBytes) (hsize : s.rawSize = s.rowBytes * s.cfgHeight.toNat) :
    Completes s (s.assemble elem) fun m =>
      ∀ y x, y < s.cfgHeight.toNat → x < s.cfgWidth.toNat →
        ∃ byte, Memory.read s.raw (y * s.rowBytes + x / 8) = some byte ∧
          Memory.read m (y * s.cfgWidth.toNat + x) = some (wrap (byte.getLsbD (7 - x % 8))) := by
  refine (assemble_elements (fun y x e => ∃ byte, Memory.read s.raw (y * s.rowBytes + x / 8) = some byte ∧
    e = wrap (byte.getLsbD (7 - x % 8))) hstable hr fun y x hy hx => ?_).mono ?_
  · obtain ⟨byte, hbyte, hok⟩ := readRaw_of_ready hr (rowByte_lt hw hsize hy hx)
    have hbit : s.rowBit y x = .ok (byte.getLsbD (7 - x % 8)) := by
      rw [State.rowBit, hok]
      rfl
    exact ⟨_, helem y x _ hbit, byte, hbyte, rfl⟩
  · intro m hm y x hy hx
    obtain ⟨e, he, byte, hbyte, rfl⟩ := hm y x hy hx
    exact ⟨byte, hbyte, he⟩

/-- Settles O38: the bit is wrapped inverted. -/
theorem grayscaleBitsAreUnpackedInverted : Obligations.GrayscaleBitsAreUnpackedInverted := fun _ hr hw hsize =>
  assemble_bits (fun bit => .grayscale1 (if bit = false then 1 else 0)) elementG1_stable
    (fun _ _ bit hbit => by cases bit <;> simp [elementG1, hbit, ok_bind]) hr hw hsize

/-- Settles O43: the bit is wrapped as an index, inverted where the parameter says so. -/
theorem indexBitsAreUnpacked : Obligations.IndexBitsAreUnpacked := by
  intro s hr hw hsize
  refine (assemble_bits (fun bit => .indexed8 (if Bool.xor bit s.params.idx1Invert then 1 else 0)) elementIdx1_stable
    (fun _ _ _ hbit => by simp only [elementIdx1, hbit, ok_bind]) hr hw hsize).mono fun m hm y x hy hx => ?_
  obtain ⟨byte, hbyte, hpix⟩ := hm y x hy hx
  refine ⟨byte, _, hbyte, rfl, hpix.trans ?_⟩
  cases byte.getLsbD (7 - x % 8) <;> cases s.params.idx1Invert <;> rfl

end Sys2Proof.Machine
end

section
/-! PROOFS. From a state that meets the invariant no step takes a model fault, and only a host move is refused (O5). -/

namespace Sys2Proof.Machine

/-! ### Which steps answer a next state -/

/-- A step of the sequencer stops on nothing. -/
theorem seqStep_next {s : State} (hi : Inv s) : ∃ t, seqStep s = .next t := by
  cases hb : Phase.isBusy s.phase with
  | false => exact ⟨s, seqStep_of_resting hb⟩
  | true =>
    obtain ⟨t, ht, -⟩ := seqStep_answers hi hb
    exact ⟨t, ht⟩

/-- The host's moves that are refused: a read that answers no value (R33, R45, R46), and a stream attached while
`BUSY = 1` (R214). -/
def NotAdmitted (s : State) : HostMove → Prop
  | .readReg n => s.hostReadReg n = none
  | .readPal i => s.hostReadPal i = none
  | .readPix p => s.hostReadPix p = none
  | .attach _ => s.busy = true
  | .pass | .writeReg _ _ | .close | .reset => False

/-- A read leaves the state where it answers a value, and is refused where it answers none. -/
theorem read_next_or_refused {α : Type} (o : Option α) (s : State) (r : Refusal) {out : Out}
    (h : out = if o.isSome then .next s else .refused r) :
    (∃ t, out = .next t) ∨ (∃ q, out = .refused q) ∧ o = none := by
  cases o with
  | none => exact .inr ⟨⟨r, h⟩, rfl⟩
  | some a => exact .inl ⟨s, h⟩

/-- A host move answers a next state, or it is refused and is one that is not admitted. -/
theorem hostMove_next_or_refused {s : State} (hi : Inv s) (m : HostMove) :
    (∃ t, hostMove m s = .next t) ∨ (∃ r, hostMove m s = .refused r) ∧ NotAdmitted s m := by
  cases m with
  | pass => exact .inl (seqStep_next hi)
  | writeReg n v => exact .inl (hostWriteReg_next s n v)
  | readReg n => exact read_next_or_refused (s.hostReadReg n) _ _ rfl
  | readPal i => exact read_next_or_refused (s.hostReadPal i) _ _ rfl
  | readPix p => exact read_next_or_refused (s.hostReadPix p) _ _ rfl
  | attach bytes =>
    by_cases hb : s.busy = true
    · exact .inr ⟨⟨.attachWhileBusy, if_pos hb⟩, hb⟩
    · exact .inl ⟨_, if_neg hb⟩
  | close => exact .inl ⟨_, rfl⟩
  | reset => exact .inl ⟨_, rfl⟩

/-- A step answers a next state, or it refuses the host's coming move. -/
theorem step_next_or_refused {s : State} (hi : Inv s) :
    (∃ t, step s = .next t) ∨ ∃ r m rest, step s = .refused r ∧ s.pending = m :: rest ∧ NotAdmitted s m := by
  cases hp : s.pending with
  | nil =>
    rw [step_of_idle_host hp]
    exact .inl (seqStep_next hi)
  | cons m rest =>
    rw [step_of_host hp]
    refine (hostMove_next_or_refused (hi.withPending rest) m).imp_right ?_
    rintro ⟨⟨r, hr⟩, hm⟩
    exact ⟨r, m, rest, hr, rfl, by cases m <;> exact hm⟩

/-! ### Which reads answer no value (R33, R35, R45, R46, R191) -/

/-- `OUT_FMT` holds no value only before the current command's `RESOLVE`, after a `DETECT`, and after a fault. -/
theorem State.phase_of_fmtHeld_eq_false {s : State} (h : s.fmtHeld = false) :
    s.phase = .fault ∨ s.phase = .magic ∨ s.phase = .header ∨ s.phase = .resolve ∨
      (s.phase = .done ∧ s.pixValid = false) := by
  unfold State.fmtHeld at h
  cases hp : s.phase <;> simp [hp] at h ⊢
  exact h

/-- Where `OUT_WIDTH` and `OUT_HEIGHT` hold no value, a command has been accepted and there is no valid result. -/
theorem Inv.no_result_of_outHeld_eq_false {s : State} (hi : Inv s) (h : s.outHeld = false) :
    s.phase ≠ .idle ∧ s.pixValid = false := by
  rw [Bool.eq_false_iff, ne_eq, State.outHeld_iff, not_or] at h
  obtain ⟨hidle, hdone⟩ := h
  exact ⟨hidle, by simpa using fun hv => hdone ⟨hi.flags.pixValid hv, hv⟩⟩

/-- The register reads that answer no value (R33, R35, R191). -/
theorem hostReadReg_none_cases {s : State} {n : BitVec 4} (h : s.hostReadReg n = none) :
    n = 15 ∨ (n = 9 ∧ s.fmtHeld = false) ∨ ((n = 10 ∨ n = 11) ∧ s.outHeld = false) ∨
      (n = 12 ∧ s.phase = .fault) := by
  have hnone : ¬ (s.hostReadReg n).isSome = true := by simp [h]
  rw [hostReadReg_isSome, State.palCountHeld_iff] at hnone
  simp only [Bool.eq_false_iff, ne_eq] at hnone ⊢
  tauto

theorem Inv.le_of_hostReadPal_none {s : State} (hi : Inv s) (hv : s.pixValid = true) {i : Nat}
    (h : s.hostReadPal i = none) : s.palCount.toNat ≤ i := by
  by_contra hlt
  obtain ⟨e, he⟩ := hi.pal_of_valid hv (Nat.not_le.mp hlt)
  simp [hostReadPal_of_admitted ⟨hv, Nat.not_le.mp hlt⟩, he] at h

theorem Inv.le_of_hostReadPix_none {s : State} (hi : Inv s) (hv : s.pixValid = true) {p : Nat}
    (h : s.hostReadPix p = none) : s.pixCount ≤ p := by
  by_contra hlt
  obtain ⟨e, he, -⟩ := hi.pix_of_valid hv (Nat.not_le.mp hlt)
  simp [hostReadPix_of_admitted ⟨hv, Nat.not_le.mp hlt⟩, he] at h

/-- The register reads that answer no value, from a state of the invariant. -/
theorem Inv.readReg_none_cases {s : State} (hi : Inv s) {n : BitVec 4} (h : s.hostReadReg n = none) :
    n = 15 ∨ (9 ≤ n.toNat ∧ n.toNat ≤ 12 ∧ s.phase = .fault) ∨
      (n = 9 ∧
        (s.phase = .magic ∨ s.phase = .header ∨ s.phase = .resolve ∨ (s.phase = .done ∧ s.pixValid = false))) ∨
      ((n = 10 ∨ n = 11) ∧ s.phase ≠ .idle ∧ s.pixValid = false) := by
  obtain rfl | ⟨rfl, hfmt⟩ | ⟨hn, hout⟩ | ⟨rfl, hf⟩ := hostReadReg_none_cases h
  · exact .inl rfl
  · obtain hf | hearly := State.phase_of_fmtHeld_eq_false hfmt
    · exact .inr (.inl ⟨by decide, by decide, hf⟩)
    · exact .inr (.inr (.inl ⟨rfl, hearly⟩))
  · exact .inr (.inr (.inr ⟨hn, hi.no_result_of_outHeld_eq_false hout⟩))
  · exact .inr (.inl ⟨by decide, by decide, hf⟩)

/-- Settles O5: what is not admitted is one of the four kinds of host move. -/
theorem invariantStatesReachNoModelFault : Obligations.InvariantStatesReachNoModelFault := by
  intro s hi
  obtain ⟨t, ht⟩ | ⟨r, m, rest, hr, hp, hm⟩ := step_next_or_refused hi
  · rw [ht]
    exact ⟨nofun, nofun⟩
  · rw [hr]
    refine ⟨nofun, fun _ _ => ?_⟩
    cases m with
    | readReg n => exact .inl ⟨n, rest, hp, hi.readReg_none_cases hm⟩
    | readPal i => exact .inr (.inl ⟨i, rest, hp, fun hv => hi.le_of_hostReadPal_none hv hm⟩)
    | readPix p => exact .inr (.inr (.inl ⟨p, rest, hp, fun hv => hi.le_of_hostReadPix_none hv hm⟩))
    | attach bytes => exact .inr (.inr (.inr ⟨bytes, rest, hp, hm⟩))
    | pass | writeReg _ _ | close | reset => exact hm.elim

end Sys2Proof.Machine
end

section
/-! PROOFS. The faults of spec/60_exceptions.md: the record of a fault stays in phase `FAULT` (O13), a stream that ends
inside an operation (O21), and an enumeration value outside its code table (O26). -/

namespace Sys2Proof.Machine

/-! ### Phase FAULT (R192) -/

/-- The phase, `FAULT`, `FAULT_KIND` and `FAULT_CAUSE` are unchanged (R26). -/
abbrev sameFaultRecord (s t : State) : Prop :=
  t.phase = s.phase ∧ t.fault = s.fault ∧ t.faultKind = s.faultKind ∧ t.faultCause = s.faultCause

theorem sameFaultRecord.refl (s : State) : sameFaultRecord s s := ⟨rfl, rfl, rfl, rfl⟩

/-- In phase `FAULT` nothing executes. -/
theorem seqStep_of_fault {s : State} (hp : s.phase = .fault) : seqStep s = .next s :=
  seqStep_of_resting (by rw [hp]; rfl)

theorem writeConfig_sameFaultRecord (s : State) (n : BitVec 4) (v : Word) :
    sameFaultRecord s (s.writeConfig n v) := by
  unfold State.writeConfig
  split <;> exact .refl s

/-- A write of any register but `CMD` is ignored or writes a configuration register (R33). -/
theorem hostWriteReg_of_ne_cmd (s : State) {n : BitVec 4} (hn : n ≠ 15) (v : Word) :
    s.hostWriteReg n v = .next s ∨ s.hostWriteReg n v = .next (s.writeConfig n v) := by
  cases hb : s.busy with
  | true => exact .inl (hostWriteReg_of_busy hb n v)
  | false =>
    by_cases hc : n.toNat ≤ 6
    · exact .inr (hostWriteReg_of_config hb hc v)
    · exact .inl (hostWriteReg_of_readOnly s (by omega) (by bv_omega) v)

/-- A host read that answers a next state leaves the state as it was. -/
theorem eq_of_read_next {c : Prop} [Decidable c] {s t : State} {r : Refusal}
    (h : (if c then Host.Outcome.next s else .refused r : Out) = .next t) : t = s := by
  split at h <;> cases h
  rfl

/-- In phase `FAULT` every move of the host but a write of `CMD` or a reset keeps the phase and the fault record. -/
theorem hostMove_sameFaultRecord {m : HostMove} {s t : State} (hp : s.phase = .fault) (hcmd : ∀ v, m ≠ .writeReg 15 v)
    (hreset : m ≠ .reset) (h : hostMove m s = .next t) : sameFaultRecord s t := by
  cases m with
  | pass =>
    rw [hostMove, seqStep_of_fault hp] at h
    cases h
    exact .refl s
  | writeReg n v =>
    have hn : n ≠ 15 := fun hn => hcmd v (by rw [hn])
    rw [hostMove] at h
    obtain he | he := hostWriteReg_of_ne_cmd s hn v <;> rw [he] at h <;> cases h
    · exact .refl s
    · exact writeConfig_sameFaultRecord s n v
  | readReg n => exact eq_of_read_next h ▸ .refl s
  | readPal i => exact eq_of_read_next h ▸ .refl s
  | readPix p => exact eq_of_read_next h ▸ .refl s
  | attach bytes =>
    rw [hostMove] at h
    split at h <;> cases h
    exact .refl s
  | close =>
    cases h
    exact .refl s
  | reset => exact absurd rfl hreset

/-- Settles O13: without a host move the sequencer rests; with one, the move keeps the record. -/
theorem faultRecordIsSticky : Obligations.FaultRecordIsSticky := by
  intro s t hp h
  have hrest : s.pending = [] → t = s := by
    intro hpend
    rw [step_of_idle_host hpend, seqStep_of_fault hp] at h
    cases h
    rfl
  refine ⟨hrest, fun hcmd hreset => ?_⟩
  cases hpend : s.pending with
  | nil =>
    rw [hrest hpend]
    exact ⟨hp, rfl, rfl, rfl⟩
  | cons m rest =>
    rw [step_of_host hpend] at h
    obtain ⟨hphase, hrecord⟩ := hostMove_sameFaultRecord (by exact hp) (fun v hm => hcmd v rest (by rw [hpend, hm]))
      (fun hm => hreset rest (by rw [hpend, hm])) h
    exact ⟨hphase.trans hp, hrecord⟩

/-! ### A stream that ends inside an operation (R183, R191) -/

theorem takeWord_length {bytes rest : List Byte} {w : Word} (h : takeWord bytes = some (w, rest)) :
    bytes.length = rest.length + 4 := by
  unfold takeWord at h
  split at h <;> cases h
  rfl

/-- Seven words take 28 bytes (R61). -/
theorem decodeHeader_of_short {bytes : List Byte} (h : bytes.length < 28) : decodeHeader bytes = none := by
  rw [Option.eq_none_iff_forall_ne_some]
  intro i hi
  simp only [decodeHeader, Option.bind_eq_bind, Option.bind_eq_some_iff, Prod.exists] at hi
  obtain ⟨_, _, h1, _, _, h2, _, _, h3, _, _, h4, _, _, h5, _, _, h6, _, _, h7, -⟩ := hi
  rw [takeWord_length h1, takeWord_length h2, takeWord_length h3, takeWord_length h4, takeWord_length h5,
    takeWord_length h6, takeWord_length h7] at h
  omega

/-- R72: the three beginnings of a token that are not a whole one. -/
theorem decodeToken_incomplete {bytes : List Byte}
    (h : bytes = [] ∨ bytes = [Config.esc] ∨ ∃ c, c ≠ 0 ∧ bytes = [Config.esc, c]) :
    decodeToken bytes = .error .streamEnd := by
  obtain rfl | rfl | ⟨c, hc, rfl⟩ := h
  · exact decodeToken_nil
  · exact decodeToken_esc
  · exact decodeToken_esc_count hc

section
variable {s : State} (hpend : s.pending = [])
include hpend

/-- Where the decoder finds no whole operation before the end of the stream, the step takes the fault. -/
theorem raises_step_of_decode_streamEnd {sel : Sel} (hm : s.midToken = false) (hsel : s.selection = some sel)
    (hd : decode sel (s.input.drop s.ipos) = .error .streamEnd) : raises (step s) s .invalidData .streamEnd := by
  rw [step_of_idle_host hpend, seqStep_of_streamEnd (State.busy_of_selection hsel) hm hsel hd]
  exact raises_raiseStreamEnd s

theorem raises_step_of_short_header (hp : s.phase = .header) (hshort : (s.input.drop s.ipos).length < 28) :
    raises (step s) s .invalidData .streamEnd :=
  raises_step_of_decode_streamEnd hpend (by simp [State.midToken, hp]) (by rw [State.selection, hp])
    (by simp only [decode, decodeHeader_of_short hshort])

theorem raises_step_of_no_raw_byte (hp : s.phase = .decomp) (hmode : RasType.decompMode s.cfgType = some .rawCopy)
    (hend : s.input.drop s.ipos = []) : raises (step s) s .invalidData .streamEnd :=
  raises_step_of_decode_streamEnd hpend (by simp [State.midToken, hmode]) (State.selection_of_rawCopy hp hmode)
    (by rw [hend]; rfl)

theorem raises_step_of_incomplete_token (hp : s.phase = .decomp) (hmode : RasType.decompMode s.cfgType = some .rle)
    (hrs : s.rstate = .rByte)
    (hshort : s.input.drop s.ipos = [] ∨ s.input.drop s.ipos = [Config.esc] ∨
      ∃ c, c ≠ 0 ∧ s.input.drop s.ipos = [Config.esc, c]) : raises (step s) s .invalidData .streamEnd :=
  raises_step_of_decode_streamEnd hpend (by simp [State.midToken, hrs]) (State.selection_of_rle hp hmode)
    (decodeToken_incomplete hshort)

/-- Inside a token the pull of the byte-level machine finds the end (R122). -/
theorem raises_step_of_no_token_byte (hp : s.phase = .decomp) (hmode : RasType.decompMode s.cfgType = some .rle)
    (hrs : s.rstate = .rCount ∨ s.rstate = .rValue) (hend : s.input.drop s.ipos = []) :
    raises (step s) s .invalidData .streamEnd := by
  have hm : s.midToken = true := by obtain hrs | hrs := hrs <;> simp [State.midToken, hp, hmode, hrs]
  have hpulls : s.rstate ≠ .rRun := by obtain hrs | hrs := hrs <;> simp [hrs]
  rw [step_of_idle_host hpend, seqStep_of_midToken hm,
    rleTransition_streamEnd hpulls (List.drop_eq_nil_iff.mp hend)]
  exact (raises_raiseStreamEnd s).enterPhase _

end

/-- Settles O21: one case for each operation that pulls; `MAGIC` is a clause of O24. -/
theorem streamEndInsideAnOperation : Obligations.StreamEndInsideAnOperation := by
  intro s hpend h
  have hraises : raises (step s) s .invalidData .streamEnd := by
    obtain ⟨hp, hshort⟩ | ⟨hp, hshort⟩ | ⟨hp, hty, hend⟩ | ⟨hp, hty, hrs, hshort⟩ | ⟨hp, hty, hrs, hend⟩ := h
    · obtain ⟨-, -, hmagic⟩ := magicPhaseComparesTheStream s hp hpend
      exact hmagic hshort
    · exact raises_step_of_short_header hpend hp hshort
    · exact raises_step_of_no_raw_byte hpend hp (RasType.decompMode_rawCopy hty) hend
    · exact raises_step_of_incomplete_token hpend hp (congrArg RasType.decompMode hty) hrs hshort
    · exact raises_step_of_no_token_byte hpend hp (congrArg RasType.decompMode hty) hrs hend
  obtain ⟨t, hstep, hfault, hcfg⟩ := hraises
  exact ⟨t, hstep, hfault, fun _ => hcfg⟩

/-! ### A value outside its code table (R92, R184) -/

/-- A name found for a value has that value as its code, whether or not the codes are distinct. -/
theorem codeOfType_of_typeOfCode {t : TypeCode} {ty : RasType} {w : Word} (h : typeOfCode t w = some ty) :
    codeOfType t ty = some w := by
  unfold typeOfCode at h
  split_ifs at h <;> cases h <;> exact congrArg some ‹w = _›.symm

theorem codeOfCmapType_of_cmapTypeOfCode {t : CmapCode} {cm : CmapType} {w : Word}
    (h : cmapTypeOfCode t w = some cm) : codeOfCmapType t cm = some w := by
  unfold cmapTypeOfCode at h
  split_ifs at h <;> cases h <;> exact congrArg some ‹w = _›.symm

/-- A value that is the code of no name is not found. -/
theorem typeOfCode_eq_none {t : TypeCode} {w : Word} (h : ∀ ty, codeOfType t ty ≠ some w) : typeOfCode t w = none :=
  Option.eq_none_iff_forall_ne_some.mpr fun ty hty => h ty (codeOfType_of_typeOfCode hty)

theorem cmapTypeOfCode_eq_none {t : CmapCode} {w : Word} (h : ∀ cm, codeOfCmapType t cm ≠ some w) :
    cmapTypeOfCode t w = none :=
  Option.eq_none_iff_forall_ne_some.mpr fun cm hcm => h cm (codeOfCmapType_of_cmapTypeOfCode hcm)

/-- `HDR` with its 28 bytes there and one of the two values not found: the plain registers are written, then the fault
is taken. -/
theorem execHdr_of_badEnumCode {s : State} {type cmapType : Word} (width height depth length cmapLength : Word)
    (hl : s.ipos + 28 ≤ s.input.length)
    (hbad : typeOfCode s.params.typeCode type = none ∨ cmapTypeOfCode s.params.cmapCode cmapType = none) :
    execHdr width height depth length type cmapType cmapLength s =
      .next
        (({ s with
            ipos := s.ipos + 28, cfgWidth := width, cfgHeight := height, cfgDepth := depth, cfgLength := length
            cfgCmapLength := cmapLength } : State).raise .badEnumCode) := by
  rw [execHdr, Config.hdrBytes, consume_of_le _ hl]
  dsimp only
  obtain hty | hcm := hbad
  · rw [hty]
  · rw [hcm]
    cases typeOfCode s.params.typeCode type <;> rfl

/-- Settles O26: neither lookup finds a name for a value that is no name's code. -/
theorem badEnumerationCodeFaults : Obligations.BadEnumerationCodeFaults := by
  intro s width height depth length type cmapType cmapLength hl hbad
  exact ⟨_, execHdr_of_badEnumCode width height depth length cmapLength hl
    (hbad.imp typeOfCode_eq_none cmapTypeOfCode_eq_none), takesFault_raise _ .badEnumCode, rfl, rfl, rfl, rfl, rfl⟩

end Sys2Proof.Machine
end

section
/-! PROOFS. Reset and hazards of spec/70_reset_and_hazards.md: the host resets the block (O3), attaches a stream (O54)
and closes one (O53), in any phase. -/

namespace Sys2Proof.Machine

/-! ### Reset (R210, R34) -/

theorem step_of_reset {s : State} {rest : List HostMove} (h : s.pending = .reset :: rest) :
    step s = .next ({ s with pending := rest } : State).hostReset := step_of_host h

/-- Settles O3: the move answers `State.hostReset` in every phase, and the bytes not yet pulled are its whole stream. -/
theorem resetIsTakenInAnyPhase : Obligations.ResetIsTakenInAnyPhase := fun _ _ h =>
  ⟨_, step_of_reset h, rfl, rfl, rfl, rfl, rfl, rfl, rfl, rfl, rfl, rfl, rfl, Memory.read_nil, Memory.read_nil,
    Memory.read_nil, List.drop_zero, rfl, rfl⟩

/-! ### Attaching a stream (R212, R41) -/

/-- Settles O54: the two branches of the move, at rest and busy. -/
theorem attachedStreamComesNext : Obligations.AttachedStreamComesNext := by
  refine fun s bytes rest h => ⟨fun hb => ?_, fun hb => ?_⟩ <;> rw [step_of_attach h, hb]
  · exact ⟨_, rfl, drop_takeD_append s.input bytes s.ipos⟩
  · rfl

/-! ### Closing the stream (R214, R41, R183) -/

/-- A colour map of which the stream does not hold every byte (R94), as a step of the sequencer. -/
theorem raises_step_of_short_colourMap {s : State} (hpend : s.pending = []) (hp : s.phase = .cmap)
    (ht : s.cfgCmapType = .rgb) (hpos : 0 < s.cfgCmapLength.toNat) (hmax : s.cfgCmapLength.toNat / 3 ≤ 256)
    (hshort : s.input.length < s.ipos + s.cfgCmapLength.toNat) : raises (step s) s .invalidData .streamEnd := by
  obtain ⟨-, -, -, hload⟩ := colourMapOtherCases s
  rw [stepRunsTheDecodedOperation s .cmap .cmap hpend (by simp [State.midToken, hp]) (by rw [State.selection, hp]) rfl]
  exact (hload ht hpos hmax hshort).enterPhase _

/-- Settles O53: a closed stream has no byte at `IPOS`, so every pull is a case of O21, or the load of `CMAP`. -/
theorem closedStreamSurfacesAsStreamEnd : Obligations.ClosedStreamSurfacesAsStreamEnd := by
  intro s rest h closed
  refine ⟨step_of_close h, fun hrest hpulls => ?_⟩
  have hle : closed.input.length ≤ closed.ipos := List.length_take_le s.ipos s.input
  have hend : closed.input.drop closed.ipos = [] := List.drop_eq_nil_iff.mpr hle
  have hinside := streamEndInsideAnOperation closed hrest
  obtain hp | hp | ⟨hp, ht, hpos, hmax⟩ | ⟨hp, hty⟩ | ⟨hp, hty, hrs | hrs⟩ := hpulls
  · exact hinside (.inl ⟨hp, by simp [hend]⟩)
  · exact hinside (.inr (.inl ⟨hp, by simp [hend]⟩))
  · have hshort : closed.input.length < closed.ipos + s.cfgCmapLength.toNat := by omega
    obtain ⟨t, hstep, hfault, hcfg⟩ := raises_step_of_short_colourMap (s := closed) hrest hp ht hpos hmax hshort
    exact ⟨t, hstep, hfault, fun _ => hcfg⟩
  · exact hinside (.inr (.inr (.inl ⟨hp, hty, hend⟩)))
  · exact hinside (.inr (.inr (.inr (.inl ⟨hp, hty, hrs, .inl hend⟩))))
  · exact hinside (.inr (.inr (.inr (.inr ⟨hp, hty, hrs, hend⟩))))

end Sys2Proof.Machine
end
